-- ==== Sys2Proof/Word.lean ====
section
/-! DEFINITION. The word and byte types of the engine (00_scope.md R6): every value is an unsigned bit string. -/

namespace Sys2Proof

/-- A word is 64 bits (00_scope.md R5, R6); `+` on it is the sum mod 2^64 (R7). -/
abbrev Word := BitVec 64

/-- A byte is 8 bits (00_scope.md R6). -/
abbrev Byte := BitVec 8

end Sys2Proof
end

