-- ==== Sys2Proof/Syntax.lean ====
section
/-! DEFINITION. The commands of the opcode table (30_encoding.md R81, R86), one constructor per row. -/

namespace Sys2Proof

/-- A command word after decoding. The operands are the fields of ARG (30_encoding.md R82). -/
inductive Instr where
  /-- `nop`, no operand (41_commands.md R133). -/
  | nop
  /-- `init`, no operand (41_commands.md R134). -/
  | init
  /-- `absorb n`, with `NBYTES = ARG[3:0]` (41_commands.md R135). -/
  | absorb (nbytes : BitVec 4)
  /-- `absorb.b imm8`, with `IMM8 = ARG[7:0]` (41_commands.md R136). -/
  | absorbB (imm8 : Byte)
  /-- `final`, no operand (41_commands.md R137). -/
  | final
deriving DecidableEq, Repr

end Sys2Proof
end

