-- ==== Sys2Proof/WellFormed.lean ====
section
/-! DEFINITION. Which commands the encoding admits: the one operand with a range is NBYTES (30_encoding.md R81, R83). -/

namespace Sys2Proof

/-- NBYTES is 0..8; every IMM8 is admitted; the other commands have no operand. -/
def Instr.wellFormed : Instr → Bool
  | .nop => true
  | .init => true
  | .absorb nbytes => decide (nbytes.toNat ≤ 8)
  | .absorbB _ => true
  | .final => true

/-- `i` is a command that some legal word stands for. -/
abbrev WellFormed (i : Instr) : Prop := i.wellFormed = true

end Sys2Proof
end

