-- ==== Sys2Proof/Decode.lean ====
section
/-! DEFINITION. The decoder of 30_encoding.md R83, R86, total on the 2^64 words, and after it the encoder of R80, R88. -/

namespace Sys2Proof

/-- Why a word is illegal (30_encoding.md R83). The engine reports all of these alike, as ILLEGAL_CMD. -/
inductive IllegalWord where
  /-- RSV_HI, bits 63:32, is not 0. -/
  | reservedHigh
  /-- RSV_MID, bits 23:8, is not 0. -/
  | reservedMiddle
  /-- OPC is one of 0x05..0xFF. -/
  | reservedOpcode
  /-- NOP, INIT or FINALIZE with a nonzero ARG. -/
  | nonzeroArgument
  /-- ABSORB with ARG above 8. -/
  | byteCount
deriving DecidableEq, Repr

/-- What the decoder reads from a word: one of the five commands, or ILLEGAL with its reason. -/
inductive Decoded where
  | command (i : Instr)
  | illegal (why : IllegalWord)
deriving DecidableEq, Repr

/-- RSV_HI, bits 63:32 (30_encoding.md R80). -/
def fieldHigh (v : Word) : BitVec 32 := v.extractLsb' 32 32

/-- OPC, bits 31:24 (30_encoding.md R80). -/
def fieldOpcode (v : Word) : BitVec 8 := v.extractLsb' 24 8

/-- RSV_MID, bits 23:8 (30_encoding.md R80). -/
def fieldMiddle (v : Word) : BitVec 16 := v.extractLsb' 8 16

/-- ARG, bits 7:0 (30_encoding.md R80). -/
def fieldArgument (v : Word) : BitVec 8 := v.extractLsb' 0 8

/-- NBYTES, bits 3:0 (30_encoding.md R82). -/
def fieldByteCount (v : Word) : BitVec 4 := v.extractLsb' 0 4

/-- A command without operand: ARG must be 0. -/
def decodePlain (i : Instr) (v : Word) : Decoded :=
  if fieldArgument v = 0 then .command i else .illegal .nonzeroArgument

/-- The opcode map of 30_encoding.md R81. -/
def decodeOpcode (v : Word) : Decoded :=
  if fieldOpcode v = 0x00 then decodePlain .nop v
  else if fieldOpcode v = 0x01 then decodePlain .init v
  else if fieldOpcode v = 0x02 then
    if (fieldArgument v).toNat ≤ 8 then .command (.absorb (fieldByteCount v)) else .illegal .byteCount
  else if fieldOpcode v = 0x03 then .command (.absorbB (fieldArgument v))
  else if fieldOpcode v = 0x04 then decodePlain .final v
  else .illegal .reservedOpcode

/-- The decoder (30_encoding.md R86): reserved bits first, then the opcode map. -/
def decode (v : Word) : Decoded :=
  if fieldHigh v ≠ 0 then .illegal .reservedHigh
  else if fieldMiddle v ≠ 0 then .illegal .reservedMiddle
  else decodeOpcode v

/-- The instruction in a word whose bits are numbered as the opcode table numbers them; every bit from `nbits` up is 0. -/
def tableWord (nbits w : Nat) : Word := BitVec.ofNat 64 (w % 2 ^ nbits)

/-- The instruction the decoder reads from a table word, none where it is illegal. -/
def decodeTableWord (nbits w : Nat) : Option Instr :=
  match decode (tableWord nbits w) with
  | .command i => some i
  | .illegal _ => none

/-- A word from its four fields (30_encoding.md R80). -/
def packWord (opcode argument : BitVec 8) : Word := 0#32 ++ opcode ++ 0#16 ++ argument

/-- The word of a command (30_encoding.md R81, R88). -/
def encode : Instr → Word
  | .nop => packWord 0x00 0x00
  | .init => packWord 0x01 0x00
  | .absorb nbytes => packWord 0x02 (0#4 ++ nbytes)
  | .absorbB imm8 => packWord 0x03 imm8
  | .final => packWord 0x04 0x00

/-- One row of `opcode_table.json` (30_encoding.md R87). -/
structure OpcodeRow where
  mnemonic : String
  pattern : Word
  mask : Word
deriving DecidableEq, Repr

/-- The five rows of 30_encoding.md R87; ABSORB has the extra constraint `v[3:0] <= 8`. -/
def opcodeRows : List OpcodeRow :=
  [⟨"nop", 0x0000000000000000, 0xFFFFFFFFFFFFFFFF⟩,
   ⟨"init", 0x0000000001000000, 0xFFFFFFFFFFFFFFFF⟩,
   ⟨"absorb", 0x0000000002000000, 0xFFFFFFFFFFFFFFF0⟩,
   ⟨"absorb.b", 0x0000000003000000, 0xFFFFFFFFFFFFFF00⟩,
   ⟨"final", 0x0000000004000000, 0xFFFFFFFFFFFFFFFF⟩]

/-- `v` matches the row: its bits under the mask are the row's pattern. -/
def OpcodeRow.matchesWord (r : OpcodeRow) (v : Word) : Bool := v &&& r.mask == r.pattern

/-- The row of a command. -/
def rowOf : Instr → OpcodeRow
  | .nop => ⟨"nop", 0x0000000000000000, 0xFFFFFFFFFFFFFFFF⟩
  | .init => ⟨"init", 0x0000000001000000, 0xFFFFFFFFFFFFFFFF⟩
  | .absorb _ => ⟨"absorb", 0x0000000002000000, 0xFFFFFFFFFFFFFFF0⟩
  | .absorbB _ => ⟨"absorb.b", 0x0000000003000000, 0xFFFFFFFFFFFFFF00⟩
  | .final => ⟨"final", 0x0000000004000000, 0xFFFFFFFFFFFFFFFF⟩

end Sys2Proof
end

