-- ==== Sys2Proof/Machine/State.lean ====
section
/-! DEFINITION. The state of one engine (10_state.md R20), the port's queues around it, and the state after reset (70_reset_and_hazards.md R190). -/

namespace Sys2Proof.Machine

/-- A 128-byte block, and the message buffer (00_scope.md R12, 10_state.md R22). -/
abbrev Block := Vector Byte 128

/-- The eighty words of a message schedule (10_state.md R34). -/
abbrev Schedule := Vector Word 80

/-- H[0..7], the hash registers; also the chaining value of a compression (10_state.md R21). -/
structure HashRegs where
  h0 : Word
  h1 : Word
  h2 : Word
  h3 : Word
  h4 : Word
  h5 : Word
  h6 : Word
  h7 : Word
deriving DecidableEq, Repr

/-- The working variables a..h of the round datapath (10_state.md R33). -/
structure WorkRegs where
  a : Word
  b : Word
  c : Word
  d : Word
  e : Word
  f : Word
  g : Word
  h : Word
deriving DecidableEq, Repr

/-- The transient datapath state: working variables, schedule, round counter (10_state.md R33, R34, R35). -/
structure Datapath where
  work : WorkRegs
  w : Schedule
  t : Fin 80
deriving DecidableEq, Repr

/-- DIGEST[0..5], the digest latch (10_state.md R28). -/
structure DigestRegs where
  d0 : Word
  d1 : Word
  d2 : Word
  d3 : Word
  d4 : Word
  d5 : Word
deriving DecidableEq, Repr

/-- READ or WRITE (20_memory.md R54). -/
inductive Dir where
  | read
  | write
deriving DecidableEq, Repr

/-- One host access to the window (20_memory.md R54). `off` is an offset 0x00..0x7F, so every access lies in the window;
`width` is in bits; `value` is the data of a 64-bit write and is not looked at otherwise. -/
structure Access where
  host : Nat
  dir : Dir
  off : BitVec 7
  width : Nat
  value : Word
deriving DecidableEq, Repr

/-- The reasons of a bus error (60_exceptions.md R177). -/
inductive BusError where
  | width
  | align
  | unmapped
  | access
deriving DecidableEq, Repr

/-- What the port answers to an access: read data, the completion of a write, or a bus error. -/
inductive Reply where
  | value (v : Word)
  | written
  | busError (reason : BusError)
deriving DecidableEq, Repr

/-- An answer and the host it goes to. -/
structure Response where
  host : Nat
  reply : Reply
deriving DecidableEq, Repr

/-- Who acts in a step. DESIGN CHOICE, log entry 3: latency, interleaving and reset are plain data. -/
inductive Input where
  /-- The engine's turn: its enabled step, if any, is taken (41_commands.md R130). -/
  | engine
  /-- A host issues an access (20_memory.md R61). -/
  | issue (a : Access)
  /-- The port looks at the oldest waiting access of a host (20_memory.md R54, R62). -/
  | serve (host : Nat)
  /-- The platform asserts and releases reset (70_reset_and_hazards.md R190, R191). DESIGN CHOICE, log entry 3: both are this
  one instant. The spec gives no duration, and nothing about the port or the engine while reset stays asserted. -/
  | reset
deriving DecidableEq, Repr

/-- The state of one engine (10_state.md R20), then the model's own queues (log entries 3 and 5). -/
structure State where
  /-- H[0..7] (10_state.md R21). -/
  h : HashRegs
  /-- BUF[0..127] (10_state.md R22). -/
  buf : Block
  /-- BUF_LEN (10_state.md R22). -/
  bufLen : BitVec 7
  /-- LEN, in bits (10_state.md R23). -/
  len : BitVec 128
  /-- FINAL, the phase (10_state.md R24). -/
  final : Bool
  /-- ERR, the first engine error (10_state.md R25). -/
  err : BitVec 4
  /-- BUSY (10_state.md R26). -/
  busy : Bool
  /-- PEND, the accepted command word; none while no command is pending (10_state.md R26; log entry 1). -/
  pend : Option Word
  /-- DATA_IN (10_state.md R27). -/
  dataIn : Word
  /-- DIGEST[0..5] (10_state.md R28). -/
  digest : DigestRegs
  /-- a..h, W and T (10_state.md R33 to R35). -/
  dp : Datapath
  /-- Accesses issued and not yet answered, oldest first. -/
  waiting : List Access
  /-- Who acts in the coming steps. -/
  inputs : List Input
  /-- What the port has answered, oldest first (70_reset_and_hazards.md R200). -/
  responses : List Response
deriving DecidableEq, Repr

/-- Why a step can stop with a fault. -/
inductive Fault where
  /-- Raised by the engine step when BUSY = 1 and PEND holds no word. Safe: the spec has no such state
  (10_state.md R26), the invariant of Safety.lean rules it out, and the model stops (log entry 8). -/
  | noPendingCommand
deriving DecidableEq, Repr

/-- Why a step can be refused. -/
inductive Refusal where
  /-- Raised by an arm of exec that has no meaning yet. Safe: the model stops. No arm uses it now. -/
  | notModelled (mnemonic : String)
deriving DecidableEq, Repr

/-- The IV as hash registers (10_state.md R21). -/
def HashRegs.iv : HashRegs :=
  ⟨initialHash[0], initialHash[1], initialHash[2], initialHash[3],
   initialHash[4], initialHash[5], initialHash[6], initialHash[7]⟩

/-- The latch with six zero words (10_state.md R28). -/
def DigestRegs.zero : DigestRegs := ⟨0, 0, 0, 0, 0, 0⟩

/-- DESIGN CHOICE, log entry 2: the spec leaves a..h, W and T unspecified after reset. -/
def Datapath.atReset : Datapath :=
  { work := ⟨0, 0, 0, 0, 0, 0, 0, 0⟩, w := Vector.replicate 80 0, t := 0 }

/-- The state right after reset (70_reset_and_hazards.md R190); BUF and the datapath as log entry 2 says, no host about. -/
def State.reset : State :=
  { h := HashRegs.iv, buf := Vector.replicate 128 0, bufLen := 0, len := 0, final := false, err := 0,
    busy := false, pend := none, dataIn := 0, digest := DigestRegs.zero, dp := Datapath.atReset,
    waiting := [], inputs := [], responses := [] }

end Sys2Proof.Machine
end

