-- ==== Sys2Proof/Machine/Operands.lean ====
section
/-! DEFINITION. Operand forms and byte order: DATA_IN lanes (30_encoding.md R82), big-endian packing (00_scope.md R7, 20_memory.md R59). -/

namespace Sys2Proof.Machine

/-- `be64(b0..b7)`: b0 is bits 63:56, b7 is bits 7:0 (00_scope.md R7). -/
def be64 (b0 b1 b2 b3 b4 b5 b6 b7 : Byte) : Word := b0 ++ b1 ++ b2 ++ b3 ++ b4 ++ b5 ++ b6 ++ b7

/-- Byte `j` of the `n` bytes of `bytes_be(v, n)`, most significant first (00_scope.md R7). -/
def byteBE {m : Nat} (v : BitVec m) (n j : Nat) : Byte := v.extractLsb' (8 * (n - 1 - j)) 8

/-- `bytes_be(v, n)` (00_scope.md R7). -/
def bytesBE {m : Nat} (v : BitVec m) (n : Nat) : List Byte := (List.range n).map (byteBE v n)

/-- Lane `i` of a DATA_IN value, `DATA_IN[63-8i : 56-8i]` (30_encoding.md R82). -/
def lane (data : Word) (i : Nat) : Byte := data.extractLsb' (56 - 8 * i) 8

/-- Lanes 0..n-1 in order, the message bytes of `absorb n` for n <= 8 (30_encoding.md R82, 41_commands.md R135). -/
def lanes (data : Word) (n : Nat) : List Byte := (List.range n).map (lane data)

end Sys2Proof.Machine
end

