-- ==== Sys2Proof/Machine/Compression.lean ====
section
/-! DEFINITION. The compression datapath (40_compression.md): functions, schedule unit, adder trees, rounds, sequencer. -/

namespace Sys2Proof.Machine

/-- `ROTR(x, n)` for 1 <= n <= 63 (40_compression.md R101). -/
def rotr (x : Word) (n : Nat) : Word := (x >>> n) ||| (x <<< (64 - n))

/-- `SHR(x, n)` (40_compression.md R101). -/
def shr (x : Word) (n : Nat) : Word := x >>> n

/-- σ0 (40_compression.md R102). -/
def smallSigma0 (x : Word) : Word := rotr x 1 ^^^ rotr x 8 ^^^ shr x 7

/-- σ1 (40_compression.md R103). -/
def smallSigma1 (x : Word) : Word := rotr x 19 ^^^ rotr x 61 ^^^ shr x 6

/-- Σ0 (40_compression.md R104). -/
def bigSigma0 (x : Word) : Word := rotr x 28 ^^^ rotr x 34 ^^^ rotr x 39

/-- Σ1 (40_compression.md R105). -/
def bigSigma1 (x : Word) : Word := rotr x 14 ^^^ rotr x 18 ^^^ rotr x 41

/-- Choose (40_compression.md R106). -/
def ch (x y z : Word) : Word := (x &&& y) ^^^ (~~~x &&& z)

/-- Majority (40_compression.md R107). -/
def maj (x y z : Word) : Word := (x &&& y) ^^^ (x &&& z) ^^^ (y &&& z)

/-- W[t] for t <= 15: the bytes 8t..8t+7 of the block as a big-endian word (40_compression.md R108). -/
def blockWord (blk : Block) (t : Fin 16) : Word :=
  be64 blk[8 * t.val] blk[8 * t.val + 1] blk[8 * t.val + 2] blk[8 * t.val + 3]
    blk[8 * t.val + 4] blk[8 * t.val + 5] blk[8 * t.val + 6] blk[8 * t.val + 7]

/-- The message parse W[0..15] (40_compression.md R108). -/
def parseBlock (blk : Block) : Vector Word 16 := Vector.ofFn (blockWord blk)

/-- The schedule adder, four operands (40_compression.md R109, R115): from W[t-2], W[t-7], W[t-15], W[t-16]. -/
def scheduleAdder (w2 w7 w15 w16 : Word) : Word := smallSigma1 w2 + w7 + smallSigma0 w15 + w16

/-- W[0..15+n]: the parse, then `n` words of the recurrence (40_compression.md R109). -/
def expand (blk : Block) : (n : Nat) → Vector Word (16 + n)
  | 0 => parseBlock blk
  | n + 1 =>
    let w := expand blk n
    w.push (scheduleAdder w[n + 14] w[n + 9] w[n + 1] w[n])

/-- W[0..79] (40_compression.md R108, R109). -/
def schedule (blk : Block) : Schedule := expand blk 64

/-- The circular window's step at round `t`, for t >= 16: it overwrites entry `t mod 16` (40_compression.md R110). -/
def windowStep (q : Vector Word 16) (t : Nat) : Vector Word 16 :=
  q.set (t % 16)
    (scheduleAdder (q[(t - 2) % 16]'(by omega)) (q[(t - 7) % 16]'(by omega)) (q[(t - 15) % 16]'(by omega))
      (q[t % 16]'(by omega)))
    (by omega)

/-- The window after the steps of rounds 16..15+n (40_compression.md R110). -/
def windowAfter (blk : Block) : Nat → Vector Word 16
  | 0 => parseBlock blk
  | n + 1 => windowStep (windowAfter blk n) (16 + n)

/-- The word the 16-entry window supplies to round `t` (40_compression.md R110). -/
def windowWord (blk : Block) (t : Nat) : Word := (windowAfter blk (t - 15))[t % 16]'(by omega)

/-- An adder tree over its operands, as hardware may arrange one (40_compression.md R115). -/
inductive AdderTree where
  | operand (x : Word)
  | add (l r : AdderTree)
deriving DecidableEq, Repr

/-- The output of a tree: the sum of its operands mod 2^64, added in the tree's shape (40_compression.md R115). -/
def AdderTree.sum : AdderTree → Word
  | .operand x => x
  | .add l r => l.sum + r.sum

/-- The operands of a tree, from left to right. -/
def AdderTree.operands : AdderTree → List Word
  | .operand x => [x]
  | .add l r => l.operands ++ r.operands

/-- The T1 adder, five operands (40_compression.md R114, R115). -/
def t1Adder (h sigma choice k w : Word) : Word := h + sigma + choice + k + w

/-- The T2 adder, two operands (40_compression.md R114, R115). -/
def t2Adder (sigma majority : Word) : Word := sigma + majority

/-- Round `t` on the working variables, with the schedule word `wt` (40_compression.md R114). -/
def roundStep (t : Fin 80) (v : WorkRegs) (wt : Word) : WorkRegs :=
  let t1 := t1Adder v.h (bigSigma1 v.e) (ch v.e v.f v.g) roundConstants[t] wt
  let t2 := t2Adder (bigSigma0 v.a) (maj v.a v.b v.c)
  { a := t1 + t2, b := v.a, c := v.b, d := v.c, e := v.d + t1, f := v.e, g := v.f, h := v.g }

/-- The working-variable load (40_compression.md R113). -/
def WorkRegs.load (h : HashRegs) : WorkRegs := ⟨h.h0, h.h1, h.h2, h.h3, h.h4, h.h5, h.h6, h.h7⟩

/-- The start of a compression: schedule computed, working variables loaded (40_compression.md R113, R117). -/
def Datapath.load (h : HashRegs) (blk : Block) : Datapath :=
  { work := WorkRegs.load h, w := schedule blk, t := 0 }

/-- The sequencer's round `t`: the round counter is `t` during it (40_compression.md R117). -/
def Datapath.round (d : Datapath) (t : Fin 80) : Datapath :=
  { d with work := roundStep t d.work d.w[t], t := t }

/-- Load, then rounds 0, 1, ..., 79 in increasing order (40_compression.md R117). -/
def Datapath.run (h : HashRegs) (blk : Block) : Datapath :=
  (List.finRange 80).foldl Datapath.round (Datapath.load h blk)

/-- The eight feed-forward adders (40_compression.md R115, R116). -/
def feedForward (h : HashRegs) (v : WorkRegs) : HashRegs :=
  ⟨h.h0 + v.a, h.h1 + v.b, h.h2 + v.c, h.h3 + v.d, h.h4 + v.e, h.h5 + v.f, h.h6 + v.g, h.h7 + v.h⟩

/-- `Compress(Hin, B)` (40_compression.md R100). -/
def compress (h : HashRegs) (blk : Block) : HashRegs := feedForward h (Datapath.run h blk).work

end Sys2Proof.Machine
end

