-- ==== Sys2Proof/Machine/Flags.lean ====
section
/-! DEFINITION. The status fields, the engine's only flags (10_state.md R30, R37), and the engine-error codes (60_exceptions.md R171). -/

namespace Sys2Proof.Machine

/-- The engine errors (60_exceptions.md R171). -/
inductive EngineError where
  | invalidState
  | illegalCmd
  | lengthOverflow
deriving DecidableEq, Repr

/-- The code recorded in ERR (60_exceptions.md R171); 0 is NONE and 4..15 are never produced. -/
def EngineError.code : EngineError → BitVec 4
  | .invalidState => 1
  | .illegalCmd => 2
  | .lengthOverflow => 3

/-- ERR after an error is raised: the first one wins (60_exceptions.md R175, 10_state.md R25). -/
def recordError (err : BitVec 4) (e : EngineError) : BitVec 4 := if err = 0 then e.code else err

/-- `STATUS = zext_64(BUF_LEN ++ ERR ++ 0b00 ++ FINAL ++ BUSY)` (10_state.md R30). -/
def statusWord (s : State) : Word :=
  (s.bufLen ++ s.err ++ 0#2 ++ BitVec.ofBool s.final ++ BitVec.ofBool s.busy).setWidth 64

/-- `LEN_LO = LEN[63:0]` (10_state.md R31). -/
def lenLow (s : State) : Word := s.len.extractLsb' 0 64

/-- `LEN_HI = LEN[127:64]` (10_state.md R31). -/
def lenHigh (s : State) : Word := s.len.extractLsb' 64 64

end Sys2Proof.Machine
end

