-- ==== Sys2Proof/Machine/Serializer.lean ====
section
/-! DEFINITION. The output serializer (42_output.md): the digest latch, its 48 bytes, and the informative hex text. -/

namespace Sys2Proof.Machine

/-- `DIGEST[k] <- H[k]` for k = 0..5; H[6] and H[7] are discarded (42_output.md R160, R161). -/
def DigestRegs.latch (h : HashRegs) : DigestRegs := ⟨h.h0, h.h1, h.h2, h.h3, h.h4, h.h5⟩

/-- DIGEST[k] (20_memory.md R56). -/
def DigestRegs.word (d : DigestRegs) (k : Fin 6) : Word :=
  match k with
  | 0 => d.d0
  | 1 => d.d1
  | 2 => d.d2
  | 3 => d.d3
  | 4 => d.d4
  | 5 => d.d5

/-- D[i], the digest byte string (42_output.md R160). -/
def digestByte (d : DigestRegs) (i : Fin 48) : Byte :=
  (d.word ⟨i.val / 8, by omega⟩).extractLsb' (56 - 8 * (i.val % 8)) 8

/-- D[0..47] (42_output.md R160). -/
def digestBytes (d : DigestRegs) : List Byte := (List.finRange 48).map (digestByte d)

/-- The lowercase hexadecimal digit of a nibble (42_output.md R163). -/
def hexDigit (n : BitVec 4) : Char :=
  if n.toNat < 10 then Char.ofNat (48 + n.toNat) else Char.ofNat (87 + n.toNat)

/-- A byte as two digits, high nibble first (42_output.md R163). -/
def hexByte (b : Byte) : List Char := [hexDigit (b.extractLsb' 4 4), hexDigit (b.extractLsb' 0 4)]

/-- The digest as the collaborator's hex text; informative (42_output.md R163). -/
def digestHex (d : DigestRegs) : List Char := (digestBytes d).flatMap hexByte

end Sys2Proof.Machine
end

