-- ==== Sys2Proof/Machine/Ops.lean ====
section
/-! DEFINITION. The shared operations of the commands: error entry (60_exceptions.md R175), AbsorbBytes (41_commands.md R131),
Pad (R132), completion (R130) and reset (70_reset_and_hazards.md R190). -/

namespace Sys2Proof.Machine

/-- `raise EngineError(e)`, the engine's one exception entry (60_exceptions.md R175): ERR if it was 0, and nothing else.
There is no vector, saved state or mode, and no return from it (R178). -/
def State.raiseError (s : State) (e : EngineError) : State := { s with err := recordError s.err e }

/-- The end of an engine step: `R.BUSY <- 0`, and no command is pending (41_commands.md R130; log entry 1). -/
def State.complete (s : State) : State := { s with busy := false, pend := none }

/-- The reset event (70_reset_and_hazards.md R190, R191): every element at its reset value, the hosts' side untouched. -/
def State.resetEngine (s : State) : State :=
  { State.reset with waiting := s.waiting, inputs := s.inputs, responses := s.responses }

/-- The end of a compression: `H[i] <- Hout[i]` for all eight i at once, the datapath as its run left it (40_compression.md R116). -/
def State.withCompressed (s : State) (d : Datapath) : State := { s with h := feedForward s.h d.work, dp := d }

/-- `H[0..7] <- Compress(H[0..7], R.BUF[0..127])`, with the datapath state it leaves (40_compression.md R117). -/
def State.compressBuf (s : State) : State := s.withCompressed (Datapath.run s.h s.buf)

/-- `R.BUF[R.BUF_LEN] <- m` (41_commands.md R131, R132). -/
def State.putByte (s : State) (m : Byte) : State :=
  { s with buf := s.buf.set s.bufLen.toNat m s.bufLen.isLt }

/-- BUF_LEN as given (0..127). -/
def State.withBufLen (s : State) (n : BitVec 7) : State := { s with bufLen := n }

/-- One turn of the loop of AbsorbBytes (41_commands.md R131): a buffer that reaches 128 bytes is compressed and emptied. -/
def State.absorbByte (s : State) (m : Byte) : State :=
  if s.bufLen.toNat + 1 = 128 then (s.putByte m).compressBuf.withBufLen 0
  else (s.putByte m).withBufLen (s.bufLen + 1)

/-- The loop of AbsorbBytes (41_commands.md R131). -/
def State.absorbLoop (s : State) (ms : List Byte) : State := ms.foldl State.absorbByte s

/-- `R.LEN <- R.LEN + 8*n` (41_commands.md R131). -/
def State.addLen (s : State) (n : Nat) : State := { s with len := s.len + BitVec.ofNat 128 (8 * n) }

/-- `AbsorbBytes(m[0..n-1])` (41_commands.md R131): the error checks come first. -/
def State.absorbBytes (s : State) (ms : List Byte) : State :=
  if s.final then s.raiseError .invalidState
  else if 2 ^ 128 ≤ s.len.toNat + 8 * ms.length then s.raiseError .lengthOverflow
  else (s.absorbLoop ms).addLen ms.length

/-- `for i = lo .. hi-1: R.BUF[i] <- 0x00` (41_commands.md R132). -/
def fillZero (lo hi : Nat) (blk : Block) : Block :=
  Vector.ofFn fun i => if lo ≤ i.val ∧ i.val < hi then 0 else blk[i]

/-- `for j = 0 .. 15: R.BUF[112 + j] <- bytes_be(L, 16)[j]` (41_commands.md R132). -/
def storeLength (len : BitVec 128) (blk : Block) : Block :=
  Vector.ofFn fun i => if 112 ≤ i.val then byteBE len 16 (i.val - 112) else blk[i]

/-- BUF as given. -/
def State.withBuf (s : State) (blk : Block) : State := { s with buf := blk }

/-- The second half of Pad (41_commands.md R132): zeros from `k` to 111, the length field, the last compression. -/
def State.padLast (s : State) (k : Nat) : State :=
  ((s.withBuf (storeLength s.len (fillZero k 112 s.buf))).compressBuf).withBufLen 0

/-- The first half of Pad when the length field does not fit (41_commands.md R132): zeros from `k` to 127 and a compression. -/
def State.padFirst (s : State) (k : Nat) : State := (s.withBuf (fillZero k 128 s.buf)).compressBuf

/-- `Pad()` (41_commands.md R132). The count after the 0x80 byte, 1..128, is `k`. -/
def State.pad (s : State) : State :=
  let k := s.bufLen.toNat + 1
  if 112 < k then ((s.putByte 0x80).padFirst k).padLast 0 else (s.putByte 0x80).padLast k

/-- `R.DIGEST[k] <- H[k]` for k = 0..5, then `R.FINAL <- 1` (41_commands.md R137). -/
def State.latchDigest (s : State) : State := { s with digest := DigestRegs.latch s.h, final := true }

/-- The assignments of `init` (41_commands.md R134). -/
def State.construct (s : State) : State :=
  { s with h := HashRegs.iv, bufLen := 0, len := 0, final := false, err := 0, digest := DigestRegs.zero }

end Sys2Proof.Machine
end

