-- ==== Sys2Proof/Machine/Absorb.lean ====
section
/-! DEFINITION. The commands that absorb message bytes: absorb and absorb.b (41_commands.md R135, R136). -/

namespace Sys2Proof.Machine

/-- `absorb n`: the first n lanes of DATA_IN (41_commands.md R135). A count above 8 is the illegal command, whatever the
phase and the length (41_commands.md R138, 60_exceptions.md R176; log entry 7). -/
def execAbsorb (nbytes : BitVec 4) (s : State) : Host.Outcome State Fault Refusal :=
  if nbytes.toNat ≤ 8 then .next (s.absorbBytes (lanes s.dataIn nbytes.toNat))
  else .next (s.raiseError .illegalCmd)

/-- `absorb.b imm8`: the byte of the command word; DATA_IN is not read (41_commands.md R136). -/
def execAbsorbB (imm8 : Byte) (s : State) : Host.Outcome State Fault Refusal := .next (s.absorbBytes [imm8])

end Sys2Proof.Machine
end

