-- ==== Sys2Proof/Machine/Control.lean ====
section
/-! DEFINITION. The commands that absorb nothing and pad nothing: nop and init (41_commands.md R133, R134), and the illegal command (R138). -/

namespace Sys2Proof.Machine

/-- `nop`: no effect (41_commands.md R133). -/
def execNop (s : State) : Host.Outcome State Fault Refusal := .next s

/-- `init`: construct or reset the digest state, in either phase; DATA_IN is not changed (41_commands.md R134). -/
def execInit (s : State) : Host.Outcome State Fault Refusal := .next s.construct

/-- The illegal command (41_commands.md R138, 60_exceptions.md R173). -/
def execIllegal (s : State) : Host.Outcome State Fault Refusal := .next (s.raiseError .illegalCmd)

end Sys2Proof.Machine
end

