-- ==== Sys2Proof/Machine/Finalize.lean ====
section
/-! DEFINITION. The command final: padding, last compressions, digest latch (41_commands.md R137). -/

namespace Sys2Proof.Machine

/-- `final`: in the finalized phase nothing happens and the latch keeps its digest (41_commands.md R137). -/
def execFinal (s : State) : Host.Outcome State Fault Refusal :=
  if s.final then .next s else .next s.pad.latchDigest

end Sys2Proof.Machine
end

