-- ==== Sys2Proof/Machine/Dispatch.lean ====
section
/-! DEFINITION. One arm per command: the call of its meaning (41_commands.md R130). -/

namespace Sys2Proof.Machine

def exec (i : Instr) (s : State) : Host.Outcome State Fault Refusal :=
  match i with
  | .nop => Sys2Proof.Machine.execNop s
  | .init => Sys2Proof.Machine.execInit s
  | .absorb nbytes => Sys2Proof.Machine.execAbsorb nbytes s
  | .absorbB imm8 => Sys2Proof.Machine.execAbsorbB imm8 s
  | .final => Sys2Proof.Machine.execFinal s

end Sys2Proof.Machine
end

