-- ==== Sys2Proof/Machine/Port.lean ====
section
/-! DEFINITION. The host port: register map, decision order, reads, writes and holds (20_memory.md R51 to R57). -/

namespace Sys2Proof.Machine

/-- The mapped registers (20_memory.md R51). -/
inductive Reg where
  | cmd
  | dataIn
  | status
  | lenLo
  | lenHi
  | digest (k : Fin 6)
deriving DecidableEq, Repr

/-- A row of the register map: offset, register, access set, and which accesses hold while BUSY. -/
structure RegRow where
  offset : Nat
  reg : Reg
  readable : Bool
  writable : Bool
  readHolds : Bool
  writeHolds : Bool
deriving DecidableEq, Repr

/-- The register map (20_memory.md R51). Every other multiple of 8 in the window is unmapped. -/
def registerMap : List RegRow :=
  [⟨0x00, .cmd, false, true, false, true⟩,
   ⟨0x08, .dataIn, true, true, true, true⟩,
   ⟨0x10, .status, true, false, false, false⟩,
   ⟨0x18, .lenLo, true, false, true, false⟩,
   ⟨0x20, .lenHi, true, false, true, false⟩,
   ⟨0x40, .digest 0, true, false, true, false⟩,
   ⟨0x48, .digest 1, true, false, true, false⟩,
   ⟨0x50, .digest 2, true, false, true, false⟩,
   ⟨0x58, .digest 3, true, false, true, false⟩,
   ⟨0x60, .digest 4, true, false, true, false⟩,
   ⟨0x68, .digest 5, true, false, true, false⟩]

/-- The row of the register at an offset, none where the offset is unmapped. -/
def registerAt (off : Nat) : Option RegRow := registerMap.find? (fun r => r.offset == off)

/-- Whether the row's access set has this direction (20_memory.md R51, R54). -/
def RegRow.allows (r : RegRow) (dir : Dir) : Bool :=
  match dir with
  | .read => r.readable
  | .write => r.writable

/-- Whether this direction holds while BUSY = 1 (20_memory.md R51, R57). -/
def RegRow.holds (r : RegRow) (dir : Dir) : Bool :=
  match dir with
  | .read => r.readHolds
  | .write => r.writeHolds

/-- A write to CMD that the port accepts: `R.PEND <- v; R.BUSY <- 1` (20_memory.md R55). -/
def State.acceptCommand (s : State) (v : Word) : State := { s with pend := some v, busy := true }

/-- `R.DATA_IN <- v` (20_memory.md R55). -/
def State.withDataIn (s : State) (v : Word) : State := { s with dataIn := v }

/-- `PortWrite` (20_memory.md R55): only CMD and DATA_IN are writable. -/
def portWrite (r : Reg) (v : Word) (s : State) : Option State :=
  match r with
  | .cmd => some (s.acceptCommand v)
  | .dataIn => some (s.withDataIn v)
  | .status => none
  | .lenLo => none
  | .lenHi => none
  | .digest _ => none

/-- `PortRead` (20_memory.md R56): every register but CMD is readable. -/
def portRead (r : Reg) (s : State) : Option Word :=
  match r with
  | .cmd => none
  | .dataIn => some s.dataIn
  | .status => some (statusWord s)
  | .lenLo => some (lenLow s)
  | .lenHi => some (lenHigh s)
  | .digest k => some (s.digest.word k)

/-- What the port does with an access. -/
inductive PortResult where
  | busError (reason : BusError)
  | hold
  | readDone (v : Word)
  | writeDone (s : State)
deriving DecidableEq, Repr

/-- The access performed on a register (20_memory.md R55, R56). -/
def performAccess (r : Reg) (a : Access) (s : State) : PortResult :=
  match a.dir with
  | .read =>
    match portRead r s with
    | some v => .readDone v
    | none => .busError .access
  | .write =>
    match portWrite r a.value s with
    | some s' => .writeDone s'
    | none => .busError .access

/-- The port's decision (20_memory.md R54): the first test that fails ends the access; a bus error is never held. -/
def portAccess (a : Access) (s : State) : PortResult :=
  if a.width ≠ 64 then .busError .width
  else if a.off.toNat % 8 ≠ 0 then .busError .align
  else
    match registerAt a.off.toNat with
    | none => .busError .unmapped
    | some row =>
      if row.allows a.dir = false then .busError .access
      else if row.holds a.dir && s.busy then .hold
      else performAccess row.reg a s

/-- The oldest waiting access of a host (20_memory.md R61). -/
def State.oldestOf (s : State) (host : Nat) : Option Access := s.waiting.find? (fun a => a.host == host)

/-- A host issues an access: it waits behind those issued before it (20_memory.md R61). -/
def State.issue (s : State) (a : Access) : State := { s with waiting := s.waiting ++ [a] }

/-- The oldest waiting access of a host leaves the port with an answer. -/
def State.answer (s : State) (host : Nat) (r : Reply) : State :=
  { s with waiting := s.waiting.eraseP (fun a => a.host == host), responses := s.responses ++ [⟨host, r⟩] }

/-- The port looks at the oldest waiting access of a host (20_memory.md R54): a bus error is answered and changes nothing
else (60_exceptions.md R177), a hold has no effect (20_memory.md R57), any other access is performed and answered. -/
def State.serve (s : State) (host : Nat) : State :=
  match s.oldestOf host with
  | none => s
  | some a =>
    match portAccess a s with
    | .busError reason => s.answer host (.busError reason)
    | .hold => s
    | .readDone v => s.answer host (.value v)
    | .writeDone s' => s'.answer host .written

end Sys2Proof.Machine
end

