-- ==== Sys2Proof/Machine/Engine.lean ====
section
/-! DEFINITION. The engine step (41_commands.md R130), and what happens in one step of the machine for each input. -/

namespace Sys2Proof.Machine

/-- What follows a command's effects in the engine step: BUSY falls (41_commands.md R130). -/
def completeOutcome : Host.Outcome State Fault Refusal → Host.Outcome State Fault Refusal
  | .next s => .next s.complete
  | .fault f => .fault f
  | .refused r => .refused r

/-- The pending word performed: the decoded command, or the illegal command (41_commands.md R130, R138). -/
def performWord (v : Word) (s : State) : Host.Outcome State Fault Refusal :=
  match decode v with
  | .command i => exec i s
  | .illegal _ => execIllegal s

/-- `EngineStep`, for a state with BUSY = 1 (41_commands.md R130). -/
def engineStep (s : State) : Host.Outcome State Fault Refusal :=
  match s.pend with
  | none => .fault .noPendingCommand
  | some v => completeOutcome (performWord v s)

/-- The engine's turn: its step is enabled exactly when BUSY = 1 (41_commands.md R130). -/
def engineTurn (s : State) : Host.Outcome State Fault Refusal :=
  if s.busy then engineStep s else .next s

/-- No input is left (log entry 3): a pending command completes (70_reset_and_hazards.md R199), else the oldest waiting
access is served, else the engine is idle and keeps its state (60_exceptions.md R185). -/
def quietStep (s : State) : Host.Outcome State Fault Refusal :=
  if s.busy then engineStep s
  else
    match s.waiting with
    | [] => .next s
    | a :: _ => .next (s.serve a.host)

/-- One input taken (log entry 3). -/
def inputStep (i : Input) (s : State) : Host.Outcome State Fault Refusal :=
  match i with
  | .engine => engineTurn s
  | .issue a => .next (s.issue a)
  | .serve host => .next (s.serve host)
  | .reset => .next s.resetEngine

/-- The inputs after the first. -/
def State.withInputs (s : State) (is : List Input) : State := { s with inputs := is }

/-- One step of the machine: the next input if there is one. -/
def machineStep (s : State) : Host.Outcome State Fault Refusal :=
  match s.inputs with
  | [] => quietStep s
  | i :: rest => inputStep i (s.withInputs rest)

/-- `v` pending and the engine's turn next (10_state.md R26; log entry 6). -/
def State.withPending (s : State) (v : Word) : State :=
  (s.acceptCommand v).withInputs (.engine :: s.inputs)

end Sys2Proof.Machine
end

