-- ==== Sys2Proof/Machine/HostProgram.lean ====
section
/-! DEFINITION. The host's side: its pseudo-assembly (00_scope.md R10), the assembler (30_encoding.md R88) and the
pseudo-instructions (R90). The host is no part of the engine's State (10_state.md R38). -/

namespace Sys2Proof.Machine

/-- The host's registers r1..r7 (00_scope.md R10); `r k` of the text is number `k - 1`. -/
abbrev HostReg := Fin 7

/-- The value a `wr` writes: a register or an immediate (00_scope.md R10). -/
inductive WriteSource where
  | reg (rs : HostReg)
  | imm (v : Word)
deriving DecidableEq, Repr

/-- The host's instructions (00_scope.md R10); a label is the number of the instruction it names (log entry 11). -/
inductive HostInstr where
  | li (rd : HostReg) (imm : Word)
  | wr (off : BitVec 7) (src : WriteSource)
  | rd (rd : HostReg) (off : BitVec 7)
  | andi (rd rs : HostReg) (imm : Word)
  | subi (rd rs : HostReg) (imm : Word)
  | bnez (rs : HostReg) (target : Nat)
  | halt
deriving DecidableEq, Repr

/-- How a host stands. -/
inductive HostStatus where
  | running
  | halted
  | machineCheck
  | offTheEnd
deriving DecidableEq, Repr

/-- A host: its registers, its program and where that stands, and the bus error it has met, if any: with one, its run is never
a successful one (60_exceptions.md R177, 93_implementation_defined.md I11). -/
structure HostState where
  regs : Vector Word 7
  pc : Nat
  program : List HostInstr
  status : HostStatus
  busError : Option BusError
deriving DecidableEq, Repr

/-- `HOST_BUS_ERROR_ACTION` (00_scope.md R5): OPEN, so it is an argument of everything a host does. Any function on the host's
own state (log entry 4). -/
abbrev BusErrorAction := BusError → HostState → HostState

/-- Whose turn it is. -/
inductive Turn where
  | host
  | engine
deriving DecidableEq, Repr

/-- One host and one engine; `turns` resolves their interleaving (log entry 11). -/
structure Hosted where
  host : HostState
  engine : State
  turns : List Turn
deriving DecidableEq, Repr

/-- Register `r` as given. -/
def HostState.setReg (x : HostState) (r : HostReg) (v : Word) : HostState := { x with regs := x.regs.set r v }

/-- Go to instruction `n`. -/
def HostState.goto (x : HostState) (n : Nat) : HostState := { x with pc := n }

/-- Go to the next instruction. -/
def HostState.advance (x : HostState) : HostState := x.goto (x.pc + 1)

/-- The host stops. -/
def HostState.stop (x : HostState) (st : HostStatus) : HostState := { x with status := st }

/-- "a machine check" (60_exceptions.md R177): one value of HOST_BUS_ERROR_ACTION. -/
def machineCheckAction : BusErrorAction := fun _ x => x.stop .machineCheck

/-- "an ignored write" (60_exceptions.md R177): the host goes on behind the access, and a read leaves its register alone. -/
def ignoreAction : BusErrorAction := fun _ x => x.advance

/-- "a precise exception on the host" (60_exceptions.md R177): the host goes on at instruction `handler`. -/
def exceptionAction (handler : Nat) : BusErrorAction := fun _ x => x.goto handler

/-- A bus error answered to the host: its action, and the record of the error. -/
def HostState.meetBusError (x : HostState) (act : BusErrorAction) (reason : BusError) : HostState :=
  { act reason x with busError := some reason }

/-- The value of a write source. -/
def HostState.source (x : HostState) (src : WriteSource) : Word :=
  match src with
  | .reg rs => x.regs[rs]
  | .imm v => v

/-- The 64-bit access of a host instruction; one host, numbered 0. -/
def hostAccess (dir : Dir) (off : BitVec 7) (v : Word) : Access :=
  { host := 0, dir := dir, off := off, width := 64, value := v }

/-- A `wr`: performed, held (the host stays where it is), or a bus error. -/
def hostWrite (act : BusErrorAction) (x : HostState) (s : State) (off : BitVec 7) (v : Word) : HostState × State :=
  match portAccess (hostAccess .write off v) s with
  | .busError reason => (x.meetBusError act reason, s)
  | .hold => (x, s)
  | .readDone _ => (x, s)
  | .writeDone s' => (x.advance, s')

/-- An `rd`: performed, held, or a bus error (a failed read returns no data, 60_exceptions.md R177). -/
def hostRead (act : BusErrorAction) (x : HostState) (s : State) (r : HostReg) (off : BitVec 7) : HostState × State :=
  match portAccess (hostAccess .read off 0) s with
  | .busError reason => (x.meetBusError act reason, s)
  | .hold => (x, s)
  | .readDone v => ((x.setReg r v).advance, s)
  | .writeDone _ => (x, s)

/-- One host instruction (00_scope.md R10). -/
def hostExec (act : BusErrorAction) (i : HostInstr) (x : HostState) (s : State) : HostState × State :=
  match i with
  | .li rd imm => ((x.setReg rd imm).advance, s)
  | .wr off src => hostWrite act x s off (x.source src)
  | .rd rd off => hostRead act x s rd off
  | .andi rd rs imm => ((x.setReg rd (x.regs[rs] &&& imm)).advance, s)
  | .subi rd rs imm => ((x.setReg rd (x.regs[rs] - imm)).advance, s)
  | .bnez rs target => (if x.regs[rs] ≠ 0 then x.goto target else x.advance, s)
  | .halt => (x.stop .halted, s)

/-- The host's turn: nothing once it has stopped. -/
def hostTurn (act : BusErrorAction) (x : HostState) (s : State) : HostState × State :=
  match x.status with
  | .running =>
    match x.program[x.pc]? with
    | some i => hostExec act i x s
    | none => (x.stop .offTheEnd, s)
  | .halted => (x, s)
  | .machineCheck => (x, s)
  | .offTheEnd => (x, s)

/-- A host and an engine in place of those of the pair. -/
def Hosted.withPair (m : Hosted) (p : HostState × State) : Hosted := { m with host := p.1, engine := p.2 }

/-- The host's turn in the pair. -/
def Hosted.hostActs (act : BusErrorAction) (m : Hosted) : Hosted := m.withPair (hostTurn act m.host m.engine)

/-- The engine's turn in the pair. -/
def Hosted.engineActs (m : Hosted) : Host.Outcome Hosted Fault Refusal :=
  match engineTurn m.engine with
  | .next s => .next (m.withPair (m.host, s))
  | .fault f => .fault f
  | .refused r => .refused r

/-- The turns after the first. -/
def Hosted.withTurns (m : Hosted) (ts : List Turn) : Hosted := { m with turns := ts }

/-- One step of the pair; with no turn left a pending command completes first (70_reset_and_hazards.md R199). -/
def Hosted.step (act : BusErrorAction) (m : Hosted) : Host.Outcome Hosted Fault Refusal :=
  match m.turns with
  | .engine :: rest => (m.withTurns rest).engineActs
  | .host :: rest => .next ((m.withTurns rest).hostActs act)
  | [] => if m.engine.busy then m.engineActs else .next (m.hostActs act)

/-- `n` steps of the pair. -/
def Hosted.run (act : BusErrorAction) : Nat → Hosted → Host.Outcome Hosted Fault Refusal
  | 0, m => .next m
  | n + 1, m =>
    match m.step act with
    | .next m' => Hosted.run act n m'
    | .fault f => .fault f
    | .refused r => .refused r

/-- The end of a run: the host has halted and BUSY = 0 (70_reset_and_hazards.md R200). -/
def Hosted.ended (m : Hosted) : Bool := m.host.status == .halted && !m.engine.busy

/-- A run that ended and met no bus error (93_implementation_defined.md I11). -/
def Hosted.succeeded (m : Hosted) : Bool := m.ended && m.host.busError.isNone

/-- A host at the start of a program, registers 0 (log entry 11). -/
def HostState.start (program : List HostInstr) : HostState :=
  { regs := Vector.replicate 7 0, pc := 0, program := program, status := .running, busError := none }

/-- A program about to run on an engine, no turn chosen. -/
def Hosted.launch (program : List HostInstr) (s : State) : Hosted :=
  { host := HostState.start program, engine := s, turns := [] }

/-! ### The assembler (30_encoding.md R88) -/

/-- A command as the assembler reads it, its operand a number or a quoted character (30_encoding.md R88). -/
inductive AsmCommand where
  | nop
  | init
  | absorb (n : Nat)
  | absorbB (imm8 : Nat)
  | absorbBQuoted (c : Char)
  | final
deriving DecidableEq, Repr

/-- `absorb.b` with the number of its operand; out of 0..255 it is an assembly error (30_encoding.md R88). -/
def assembleByte (n : Nat) : Option Word := if n ≤ 255 then some (encode (.absorbB (BitVec.ofNat 8 n))) else none

/-- The assembler; an operand out of range is an assembly error, and so is a quoted character that is not ASCII
(30_encoding.md R88). -/
def assemble (c : AsmCommand) : Option Word :=
  match c with
  | .nop => some (encode .nop)
  | .init => some (encode .init)
  | .absorb n => if n ≤ 8 then some (encode (.absorb (BitVec.ofNat 4 n))) else none
  | .absorbB imm8 => assembleByte imm8
  | .absorbBQuoted c => if c.toNat ≤ 127 then assembleByte c.toNat else none
  | .final => some (encode .final)

/-! ### The pseudo-instructions (30_encoding.md R89, R90): none where the assembler finds an error -/

/-- `cmd m`: `wr CMD, enc(m)` (30_encoding.md R89, R90). -/
def cmd (c : AsmCommand) : Option (List HostInstr) := (assemble c).map fun v => [.wr 0x00 (.imm v)]

/-- Pieces of a program one after the other; an error in one is an error of the whole. -/
def joinAll : List (Option (List HostInstr)) → Option (List HostInstr)
  | [] => some []
  | none :: _ => none
  | some p :: rest => (joinAll rest).map fun q => p ++ q

/-- `absorb.q v, n`, n = 0..8 (30_encoding.md R90); `v` is a register or an immediate, as in the `wr` it expands to: R90 does
not say which (DEDUCED, log entry 15). -/
def absorbQ (v : WriteSource) (n : Nat) : Option (List HostInstr) := joinAll [some [.wr 0x08 v], cmd (.absorb n)]

/-- `wait`, placed at instruction number `at0`; it clobbers r7 (30_encoding.md R90). -/
def waitLoop (at0 : Nat) : List HostInstr := [.rd 6 0x10, .andi 6 6 1, .bnez 6 at0]

/-- A chunk of at most 8 bytes as a DATA_IN value, zero bytes behind it (30_encoding.md R90). -/
def chunkWord (c : List Byte) : Word :=
  be64 (c.getD 0 0) (c.getD 1 0) (c.getD 2 0) (c.getD 3 0) (c.getD 4 0) (c.getD 5 0) (c.getD 6 0) (c.getD 7 0)

/-- Chunk `j` of a byte string: its bytes 8j up to 8j+7 or the end. -/
def chunk (bs : List Byte) (j : Nat) : List Byte := (bs.drop (8 * j)).take 8

/-- `update B`: one `absorb.q` for each chunk of up to 8 bytes (30_encoding.md R90). -/
def update (bs : List Byte) : Option (List HostInstr) :=
  joinAll ((List.range ((bs.length + 7) / 8)).map fun j => absorbQ (.imm (chunkWord (chunk bs j))) (chunk bs j).length)

/-- `update.b B`: one `absorb.b` a byte (30_encoding.md R90). -/
def updateB (bs : List Byte) : Option (List HostInstr) := joinAll (bs.map fun b => cmd (.absorbB b.toNat))

/-- `readdigest r1..r6` (30_encoding.md R90). -/
def readDigest : List HostInstr :=
  [.rd 0 0x40, .rd 1 0x48, .rd 2 0x50, .rd 3 0x58, .rd 4 0x60, .rd 5 0x68]

/-- `sha384 B` (30_encoding.md R90). -/
def sha384Program (bs : List Byte) : Option (List HostInstr) :=
  joinAll [cmd .init, update bs, cmd .final, some readDigest]

/-! ### ARD's software interface (41_commands.md R139) -/

/-- What ARD's `update` reports. -/
inductive ArdReport where
  | done
  | invalidState
deriving DecidableEq, Repr

/-- `new_digest()`: `cmd init` on a free instance; a reset does the same (41_commands.md R139). -/
def ardNewDigest : Option (List HostInstr) := cmd .init

/-- `update(engine, bytes)`, placed at instruction number `at0`: `update B`, then STATUS into r7 once BUSY = 0
(41_commands.md R139, 70_reset_and_hazards.md R195; log entry 14). -/
def ardUpdate (at0 : Nat) (bs : List Byte) : Option (List HostInstr) :=
  (update bs).map fun u => u ++ waitLoop (at0 + u.length) ++ [.rd 6 0x10]

/-- ARD's `InvalidState` is reported if `STATUS.ERR = 1` (41_commands.md R139). -/
def ardReport (status : Word) : ArdReport := if status.extractLsb' 4 4 = 1 then .invalidState else .done

/-- What `update(engine, bytes)` reports once its program has run: from STATUS in r7. -/
def ardUpdateReport (x : HostState) : ArdReport := ardReport x.regs[6]

/-- `finalize(engine)`: `cmd final`, then `readdigest` (41_commands.md R139). -/
def ardFinalize : Option (List HostInstr) := joinAll [cmd .final, some readDigest]

/-- The 48 bytes that `finalize` and `sha384` return: those of 42_output.md R160, from r1..r6 (41_commands.md R139). -/
def ardDigest (x : HostState) : List Byte :=
  digestBytes ⟨x.regs[0], x.regs[1], x.regs[2], x.regs[3], x.regs[4], x.regs[5]⟩

/-- `sha384(bytes)`: the pseudo-instruction `sha384 B` (41_commands.md R139). -/
def ardSha384 (bs : List Byte) : Option (List HostInstr) := sha384Program bs

end Sys2Proof.Machine
end

