-- ==== Sys2Proof/Machine/HostMemory.lean ====
section
/-! DEFINITION. The two OPEN parameters of a host's data (00_scope.md R5): HOST_BYTE_ORDER, on which host software depends that
builds DATA_IN from a byte array or splits a DIGEST word into bytes (20_memory.md R59), and TEXT_ENCODING (42_output.md R164). -/

namespace Sys2Proof.Machine

/-! ### HOST_BYTE_ORDER -/

/-- `HOST_BYTE_ORDER` (00_scope.md R5): OPEN, so it is an argument of what depends on it. It says which byte of a 64-bit value,
counted from the most significant, the host keeps at each place of eight consecutive bytes. Any order (log entry 12). -/
abbrev HostByteOrder := Equiv.Perm (Fin 8)

/-- A big-endian host: one value of HOST_BYTE_ORDER. -/
def bigEndianHost : HostByteOrder := Equiv.refl (Fin 8)

/-- A little-endian host: one value of HOST_BYTE_ORDER. -/
def littleEndianHost : HostByteOrder := Fin.revPerm

/-- Eight consecutive bytes of a host's memory. -/
abbrev HostBytes := Vector Byte 8

/-- The word whose byte `i`, counted from the most significant, is `b i`. -/
def wordOfBytes (b : Fin 8 → Byte) : Word := be64 (b 0) (b 1) (b 2) (b 3) (b 4) (b 5) (b 6) (b 7)

/-- The bytes in which the host keeps a 64-bit value. -/
def storeWord (o : HostByteOrder) (v : Word) : HostBytes := Vector.ofFn fun p => lane v (o p)

/-- The 64-bit value that the host keeps in eight bytes. -/
def loadWord (o : HostByteOrder) (m : HostBytes) : Word := wordOfBytes fun i => m[o.symm i]

/-- The value whose byte `i` is byte `p i` of `v`: a host's byte swap. -/
def permuteLanes (p : Equiv.Perm (Fin 8)) (v : Word) : Word := wordOfBytes fun i => lane v (p i)

/-- DATA_IN from eight bytes of an array: loaded in the host's order, then brought into the engine's lane order, first byte in
lane 0 (20_memory.md R59). -/
def dataInOf (o : HostByteOrder) (m : HostBytes) : Word := permuteLanes o (loadWord o m)

/-- A word as bytes of an array, the most significant first, as a DIGEST word is split (20_memory.md R59): brought into the host's
order, then stored. -/
def splitWord (o : HostByteOrder) (v : Word) : HostBytes := storeWord o (permuteLanes o.symm v)

/-- A chunk of a byte array in eight bytes, zero bytes behind it. -/
def chunkBytes (c : List Byte) : HostBytes := Vector.ofFn fun p => c.getD p 0

/-- `update B` as host software of byte order `o` builds it from a byte array (30_encoding.md R90, 20_memory.md R59). -/
def updateFromArray (o : HostByteOrder) (bs : List Byte) : Option (List HostInstr) :=
  joinAll ((List.range ((bs.length + 7) / 8)).map fun j =>
    absorbQ (.imm (dataInOf o (chunkBytes (chunk bs j)))) (chunk bs j).length)

/-- The bytes into which host software of byte order `o` splits the six DIGEST words in r1..r6 (20_memory.md R59). -/
def digestIntoArray (o : HostByteOrder) (x : HostState) : List Byte :=
  (List.finRange 6).flatMap fun k => (splitWord o x.regs[k.val]).toList

/-! ### TEXT_ENCODING -/

/-- `TEXT_ENCODING` (00_scope.md R5): OPEN, the external collaborator's. Any function from text to bytes (log entry 12). -/
abbrev TextEncoding := List Char → List Byte

/-- `sha384` of a text: of the bytes that the collaborator's encoding gives for it (42_output.md R164). -/
def sha384Text (enc : TextEncoding) (text : List Char) : Option (List HostInstr) := ardSha384 (enc text)

end Sys2Proof.Machine
end

