-- ==== Sys2Proof/Config.lean ====
section
/-! DEFINITION. The OPEN parameters of 00_scope.md R5 that are numbers of the platform, as constants without a body. -/

namespace Sys2Proof.Config

/-- The number of instances beyond the first; OPEN (`N_ENGINES`, 00_scope.md R5). -/
opaque furtherEngines : Nat

/-- `N_ENGINES`: at least 1 (00_scope.md R5, 60_exceptions.md R183). -/
def nEngines : Nat := furtherEngines + 1

/-- Which 0x80-byte slot of the host's address space holds the window of instance `k`; OPEN. A permutation of the slots, so
that each instance has its own window (60_exceptions.md R183); any choice of distinct slots for finitely many instances
extends to one (log entry 10). -/
opaque windowSlot : Equiv.Perm Nat

/-- `ENGINE_BASE` of instance `k`: OPEN, and a multiple of 0x80 (20_memory.md R50). -/
def engineBase (k : Nat) : Nat := 0x80 * windowSlot k

end Sys2Proof.Config
end

