-- ==== Sys2Proof/Machine/Platform.lean ====
section
/-! DEFINITION. A platform of N_ENGINES independent engines, each with its own window (20_memory.md R50, 60_exceptions.md R183). -/

namespace Sys2Proof.Machine

/-- An access as a host puts it on its bus: at an absolute address. -/
structure BusAccess where
  host : Nat
  dir : Dir
  addr : Nat
  width : Nat
  value : Word
deriving DecidableEq, Repr

/-- What happens on the platform: a host's access reaches the windows, engine `k` takes its turn, the port of engine `k` looks
at a host's oldest access, engine `k` is reset. -/
inductive PlatformEvent where
  | bus (a : BusAccess)
  | turn (k : Nat)
  | serve (k host : Nat)
  | reset (k : Nat)
deriving DecidableEq, Repr

/-- The engines by their number, and the events to come, in the order the platform chose (log entry 10). The events take the
place of each engine's own `inputs`, which a platform does not read. -/
structure Platform where
  engines : List State
  events : List PlatformEvent
deriving DecidableEq, Repr

/-- `addr` lies in the window of instance `k` (20_memory.md R50). -/
def inWindow (k addr : Nat) : Bool := decide (Config.engineBase k ≤ addr ∧ addr < Config.engineBase k + 0x80)

/-- The instance, if any, whose window holds an address: at most one does, since no two instances share a slot. -/
def windowOwner (n addr : Nat) : Option Nat := (List.range n).find? (fun k => inWindow k addr)

/-- The access as the port of instance `k` sees it: an offset in its window. -/
def BusAccess.atWindow (a : BusAccess) (k : Nat) : Access :=
  { host := a.host, dir := a.dir, off := BitVec.ofNat 7 (a.addr - Config.engineBase k), width := a.width, value := a.value }

/-- Engine `k` as given, the others as they are. -/
def Platform.withEngine (p : Platform) (k : Nat) (s : State) : Platform := { p with engines := p.engines.set k s }

/-- The events after the first. -/
def Platform.withEvents (p : Platform) (es : List PlatformEvent) : Platform := { p with events := es }

/-- The instance an event reaches; an address outside every window reaches no engine (20_memory.md R50). -/
def Platform.target (p : Platform) (e : PlatformEvent) : Option Nat :=
  match e with
  | .bus a => windowOwner p.engines.length a.addr
  | .turn k => some k
  | .serve k _ => some k
  | .reset k => some k

/-- What an event does to the engine it reaches. -/
def engineEvent (k : Nat) (e : PlatformEvent) (s : State) : Host.Outcome State Fault Refusal :=
  match e with
  | .bus a => .next (s.issue (a.atWindow k))
  | .turn _ => engineTurn s
  | .serve _ host => .next (s.serve host)
  | .reset _ => .next s.resetEngine

/-- Engine `k` acts, if there is one. -/
def Platform.act (p : Platform) (k : Nat) (f : State → Host.Outcome State Fault Refusal) :
    Host.Outcome Platform Fault Refusal :=
  match p.engines[k]? with
  | none => .next p
  | some s =>
    match f s with
    | .next s' => .next (p.withEngine k s')
    | .fault r => .fault r
    | .refused r => .refused r

/-- One event taken. -/
def Platform.take (p : Platform) (e : PlatformEvent) : Host.Outcome Platform Fault Refusal :=
  match p.target e with
  | none => .next p
  | some k => p.act k (engineEvent k e)

/-- A command is pending or an access waits. -/
def State.unsettled (s : State) : Bool := s.busy || !s.waiting.isEmpty

/-- No event is left: the first engine with something to do completes its command, or else serves its oldest waiting access
(70_reset_and_hazards.md R199). That it is the first one, and the oldest access, is the model's choice (log entry 10). -/
def Platform.settle (p : Platform) : Host.Outcome Platform Fault Refusal :=
  match p.engines.findIdx? State.unsettled with
  | none => .next p
  | some k => p.act k quietStep

/-- One step of the platform: the next event if there is one, else towards completion (log entry 10). -/
def Platform.step (p : Platform) : Host.Outcome Platform Fault Refusal :=
  match p.events with
  | [] => p.settle
  | e :: rest => (p.withEvents rest).take e

/-- Every engine after reset (60_exceptions.md R183: any instance is usable from reset). -/
def Platform.reset : Platform := { engines := List.replicate Config.nEngines State.reset, events := [] }

end Sys2Proof.Machine
end

