-- ==== Sys2Proof/Safety.lean ====
section
/-! DEFINITION. What statements speak of: legality as 30_encoding.md R83 writes it, the invariant of the states, what a host can
come to see (10_state.md R39), and the digest of a message as a function of the message (41_commands.md R142). -/

namespace Sys2Proof.Machine

/-- `legal(v)`, on the number `v` (30_encoding.md R83): `v[63:32]` and `v[23:8]` are 0, and ARG is as OPC asks. -/
def legal (v : Word) : Prop :=
  v.toNat / 2 ^ 32 = 0 ∧ v.toNat / 2 ^ 8 % 2 ^ 16 = 0 ∧
    (((v.toNat / 2 ^ 24 % 2 ^ 8 = 0 ∨ v.toNat / 2 ^ 24 % 2 ^ 8 = 1 ∨ v.toNat / 2 ^ 24 % 2 ^ 8 = 4) ∧ v.toNat % 2 ^ 8 = 0) ∨
      (v.toNat / 2 ^ 24 % 2 ^ 8 = 2 ∧ v.toNat % 2 ^ 8 ≤ 8) ∨
      v.toNat / 2 ^ 24 % 2 ^ 8 = 3)

/-- Every element that the spec gives a reset value has it (70_reset_and_hazards.md R190, 10_state.md R21). -/
def HasResetValues (t : State) : Prop :=
  t.h = ⟨0xcbbb9d5dc1059ed8, 0x629a292a367cd507, 0x9159015a3070dd17, 0x152fecd8f70e5939,
      0x67332667ffc00b31, 0x8eb44a8768581511, 0xdb0c2e0d64f98fa7, 0x47b5481dbefa4fa4⟩ ∧
    t.bufLen = 0 ∧ t.len = 0 ∧ t.final = false ∧ t.err = 0 ∧ t.busy = false ∧ t.pend = none ∧ t.dataIn = 0 ∧
    t.digest = ⟨0, 0, 0, 0, 0, 0⟩

/-- BUSY = 1 exactly while PEND holds a command (10_state.md R26). -/
def PendMatchesBusy (s : State) : Prop := s.busy = s.pend.isSome

/-- ERR is 0, 1, 2 or 3 (60_exceptions.md R171). -/
def ErrLegal (s : State) : Prop := s.err.toNat ≤ 3

/-- LEN counts whole bytes (10_state.md R23). -/
def LenWholeBytes (s : State) : Prop := s.len.toNat % 8 = 0

/-- While absorbing, BUF_LEN is the byte count mod 128, and the latch holds zeros (41_commands.md R135, 42_output.md R162). -/
def AbsorbingShape (s : State) : Prop :=
  s.final = false → s.bufLen.toNat = s.len.toNat / 8 % 128 ∧ s.digest = DigestRegs.zero

/-- After finalization the buffer is empty and the latch holds the first six hash registers (10_state.md R28, 41_commands.md R137). -/
def FinalizedShape (s : State) : Prop :=
  s.final = true → s.bufLen = 0 ∧ s.digest = DigestRegs.latch s.h

/-- The invariant of the engine's states. -/
def EngineInv (s : State) : Prop :=
  PendMatchesBusy s ∧ ErrLegal s ∧ LenWholeBytes s ∧ AbsorbingShape s ∧ FinalizedShape s

/-- The engine's committed elements that a command may change, and those a command reads (20_memory.md R60): everything of
10_state.md R20 but BUSY and PEND. -/
def SameCommitted (s t : State) : Prop :=
  t.h = s.h ∧ t.buf = s.buf ∧ t.bufLen = s.bufLen ∧ t.len = s.len ∧ t.final = s.final ∧ t.err = s.err ∧
    t.dataIn = s.dataIn ∧ t.digest = s.digest ∧ t.dp = s.dp

/-- The port's queues are the same. -/
def SameQueues (s t : State) : Prop := t.waiting = s.waiting ∧ t.inputs = s.inputs ∧ t.responses = s.responses

/-- Two states that differ at most in what no rule reads: BUF from BUF_LEN on, a..h, W and T (10_state.md R22, R33 to R35). -/
def SameButHidden (s t : State) : Prop :=
  t.h = s.h ∧ t.bufLen = s.bufLen ∧ t.len = s.len ∧ t.final = s.final ∧ t.err = s.err ∧ t.busy = s.busy ∧
    t.pend = s.pend ∧ t.dataIn = s.dataIn ∧ t.digest = s.digest ∧ SameQueues s t ∧
    ∀ i : Fin 128, i.val < s.bufLen.toNat → t.buf[i] = s.buf[i]

/-- The bytes in the buffer, oldest first: `BUF[0..BUF_LEN-1]` (10_state.md R22). -/
def bufferedBytes (s : State) : List Byte := s.buf.toList.take s.bufLen.toNat

/-- The next step is a reset (70_reset_and_hazards.md R190). -/
def TakesReset (s : State) : Prop := ∃ rest, s.inputs = .reset :: rest

/-- The next step is the engine's: its turn is the next input, or no input is left and a command is pending (log entry 3). -/
def EngineIsNext (s : State) : Prop := s.busy = true ∧ (s.inputs = [] ∨ ∃ rest, s.inputs = .engine :: rest)

/-- The next step performs the command `i` (41_commands.md R130). -/
def Runs (i : Instr) (s : State) : Prop := EngineIsNext s ∧ ∃ v, s.pend = some v ∧ decode v = .command i

/-- The next step looks at the access `a` (20_memory.md R54; log entry 3). -/
def Serves (a : Access) (s : State) : Prop :=
  (∃ rest, s.inputs = .serve a.host :: rest ∧ s.oldestOf a.host = some a) ∨
    (s.inputs = [] ∧ s.busy = false ∧ s.waiting.head? = some a)

/-- `p` is a prime number, by trial division. -/
def isPrimeNumber (p : Nat) : Bool := decide (2 ≤ p) && (List.range p).all fun d => decide (d < 2) || p % d != 0

/-- The prime numbers below 410 in increasing order: the "prime" columns of 10_state.md R21 and 40_compression.md R111. -/
def primeNumbers : List Nat := (List.range 410).filter isPrimeNumber

/-- The zero bytes between the 0x80 byte and the length field of a message of `m` bytes (41_commands.md R132). -/
def padZeros (m : Nat) : Nat := (128 - (m + 17) % 128) % 128

/-- A message with its padding: 0x80, zeros, the 16-byte big-endian bit length (41_commands.md R132). -/
def padMessage (msg : List Byte) : List Byte :=
  msg ++ [0x80] ++ List.replicate (padZeros msg.length) 0 ++ bytesBE (BitVec.ofNat 128 (8 * msg.length)) 16

/-- Block `j` of a byte sequence: its bytes 128j..128j+127. -/
def blockOf (bytes : List Byte) (j : Nat) : Block := Vector.ofFn fun i => bytes.getD (128 * j + i.val) 0

/-- The chaining value after the first `n` blocks of a byte sequence, from the IV (40_compression.md R117). -/
def chain (bytes : List Byte) : Nat → HashRegs
  | 0 => HashRegs.iv
  | n + 1 => compress (chain bytes n) (blockOf bytes n)

/-- SHA-384 of a message: the first six words of the chaining value of its padded blocks (41_commands.md R142). -/
def sha384 (msg : List Byte) : DigestRegs :=
  DigestRegs.latch (chain (padMessage msg) ((padMessage msg).length / 128))

/-- The engine has absorbed exactly the bytes `msg` since INIT or reset, and is in the absorbing phase (10_state.md R22, R23). -/
def Absorbed (msg : List Byte) (s : State) : Prop :=
  s.final = false ∧ s.len.toNat = 8 * msg.length ∧ s.bufLen.toNat = msg.length % 128 ∧
    s.h = chain msg (msg.length / 128) ∧
    ∀ i : Fin 128, i.val < msg.length % 128 → s.buf[i] = msg.getD (128 * (msg.length / 128) + i.val) 0

/-- No access of a host has been answered with a bus error (60_exceptions.md R177, 93_implementation_defined.md I11). -/
def NoBusError (s : State) : Prop := ∀ r ∈ s.responses, ∀ reason, r.reply ≠ .busError reason

/-- A host may trust the latch (70_reset_and_hazards.md R197): finalized, no engine error since INIT or reset. -/
def DigestTrusted (s : State) : Prop := s.final = true ∧ s.err = 0

end Sys2Proof.Machine
end

