-- ==== Sys2Proof/Certificates/Slice0/Obligations.lean ====
section
/-! DEFINITION. The statements for the provers. -/

open Sys2Proof Sys2Proof.Machine

/-! ### Reset -/

/-- 70_reset_and_hazards.md R190: the values the spec gives for reset, in the state after reset and after a reset from any
state. BUF and the datapath are unspecified there and are not spoken of. -/
def Obligations.ResetLeavesTheListedValues : Prop := HasResetValues State.reset ∧ ∀ s : State, HasResetValues s.resetEngine

/-- 70_reset_and_hazards.md R190 to R192: reset from any state is the next step where the platform asserts it (log entry 3); a
pending command is abandoned with none of its effects; an access that waits is neither lost nor performed (log entry 5). And
reset equals INIT plus `DATA_IN <- 0`, `BUSY <- 0` and `PEND <- none`, on every element whose reset value the spec gives. -/
def Obligations.ResetAbandonsThePendingCommand : Prop :=
  (∀ (s : State) (rest : List Input), s.inputs = .reset :: rest →
    ∃ t, step s = .next t ∧ HasResetValues t ∧ t.waiting = s.waiting ∧ t.responses = s.responses ∧ t.inputs = rest) ∧
  ∀ s : State, ∃ t, exec .init s = .next t ∧
    s.resetEngine.h = t.h ∧ s.resetEngine.bufLen = t.bufLen ∧ s.resetEngine.len = t.len ∧
    s.resetEngine.final = t.final ∧ s.resetEngine.err = t.err ∧ s.resetEngine.digest = t.digest ∧
    s.resetEngine.dataIn = 0 ∧ s.resetEngine.busy = false ∧ s.resetEngine.pend = none

/-! ### The read-only memories -/

/-- 10_state.md R21: `IV[i]` is the first 64 bits of the fractional part of the square root of the (9+i)-th prime. -/
def Obligations.InitialHashIsSquareRootFractions : Prop :=
  ∀ i : Fin 8, ∃ q : Nat,
    (q * 2 ^ 64 + initialHash[i].toNat) ^ 2 ≤ primeNumbers.getD (i.val + 8) 0 * 2 ^ 128 ∧
      primeNumbers.getD (i.val + 8) 0 * 2 ^ 128 < (q * 2 ^ 64 + initialHash[i].toNat + 1) ^ 2

/-- 40_compression.md R111: `K[t]` is the first 64 bits of the fractional part of the cube root of the (t+1)-th prime. -/
def Obligations.RoundConstantsAreCubeRootFractions : Prop :=
  ∀ t : Fin 80, ∃ q : Nat,
    (q * 2 ^ 64 + roundConstants[t].toNat) ^ 3 ≤ primeNumbers.getD t.val 0 * 2 ^ 192 ∧
      primeNumbers.getD t.val 0 * 2 ^ 192 < (q * 2 ^ 64 + roundConstants[t].toNat + 1) ^ 3

/-! ### Encoding -/

/-- Decode and encode agree, both ways: a word decodes to a command exactly when the command is well formed and the word is
its encoding (30_encoding.md R80 to R88). -/
def Obligations.DecodeInvertsEncode : Prop :=
  ∀ (v : Word) (i : Instr), decode v = .command i ↔ WellFormed i ∧ encode i = v

/-- 30_encoding.md R86: every illegal word is ILLEGAL, and a legal word is the command of its opcode with the operand bits
as R86 takes them. -/
def Obligations.DecoderFollowsLegality : Prop :=
  ∀ v : Word,
    (¬ legal v → ∃ why, decode v = .illegal why) ∧
    (legal v →
      (v.toNat / 2 ^ 24 % 2 ^ 8 = 0 → decode v = .command .nop) ∧
      (v.toNat / 2 ^ 24 % 2 ^ 8 = 1 → decode v = .command .init) ∧
      (v.toNat / 2 ^ 24 % 2 ^ 8 = 2 → decode v = .command (.absorb (BitVec.ofNat 4 (v.toNat % 2 ^ 4)))) ∧
      (v.toNat / 2 ^ 24 % 2 ^ 8 = 3 → decode v = .command (.absorbB (BitVec.ofNat 8 (v.toNat % 2 ^ 8)))) ∧
      (v.toNat / 2 ^ 24 % 2 ^ 8 = 4 → decode v = .command .final))

/-- 30_encoding.md R87: the decoder and the match and mask pairs of the opcode table agree, and a word matches at most one
row. -/
def Obligations.OpcodeRowsAgreeWithTheDecoder : Prop :=
  ∀ v : Word,
    (decode v = .command .nop ↔ v &&& 0xFFFFFFFFFFFFFFFF#64 = 0x0000000000000000#64) ∧
    (decode v = .command .init ↔ v &&& 0xFFFFFFFFFFFFFFFF#64 = 0x0000000001000000#64) ∧
    ((∃ n, decode v = .command (.absorb n)) ↔
      v &&& 0xFFFFFFFFFFFFFFF0#64 = 0x0000000002000000#64 ∧ v.toNat % 2 ^ 4 ≤ 8) ∧
    ((∃ b, decode v = .command (.absorbB b)) ↔ v &&& 0xFFFFFFFFFFFFFF00#64 = 0x0000000003000000#64) ∧
    (decode v = .command .final ↔ v &&& 0xFFFFFFFFFFFFFFFF#64 = 0x0000000004000000#64) ∧
    ∀ r ∈ opcodeRows, ∀ r' ∈ opcodeRows, r.matchesWord v = true → r'.matchesWord v = true → r = r'

/-- 30_encoding.md R88: the assembler's encodings and operand ranges, and that it never encodes an illegal word. -/
def Obligations.AssemblerEncodesOnlyLegalWords : Prop :=
  assemble .nop = some 0x0000000000000000 ∧ assemble .init = some 0x0000000001000000 ∧
    assemble .final = some 0x0000000004000000 ∧
    (∀ n : Nat, n ≤ 8 → assemble (.absorb n) = some (0x0000000002000000 ||| BitVec.ofNat 64 n)) ∧
    (∀ n : Nat, 8 < n → assemble (.absorb n) = none) ∧
    (∀ m : Nat, m ≤ 255 → assemble (.absorbB m) = some (0x0000000003000000 ||| BitVec.ofNat 64 m)) ∧
    (∀ m : Nat, 255 < m → assemble (.absorbB m) = none) ∧
    (∀ c : Char, c.toNat ≤ 127 → assemble (.absorbBQuoted c) = some (0x0000000003000000 ||| BitVec.ofNat 64 c.toNat)) ∧
    (∀ c : Char, 127 < c.toNat → assemble (.absorbBQuoted c) = none) ∧
    ∀ c v, assemble c = some v → legal v

/-- Words written out from 30_encoding.md R81 and 95_test_vectors.md T5 decode to the commands they stand for. -/
def Obligations.SampleWordsDecode : Prop :=
  decode 0x0000000000000000 = .command .nop ∧ decode 0x0000000001000000 = .command .init ∧
    decode 0x0000000002000003 = .command (.absorb 3) ∧ decode 0x0000000002000008 = .command (.absorb 8) ∧
    decode 0x0000000003000080 = .command (.absorbB 0x80) ∧ decode 0x0000000004000000 = .command .final ∧
    decode 0x0000000002000009 = .illegal .byteCount ∧ decode 0x0000000005000000 = .illegal .reservedOpcode ∧
    decode 0x8000000000000000 = .illegal .reservedHigh ∧ decode 0x0000000002000103 = .illegal .reservedMiddle

/-! ### The step -/

/-- 41_commands.md R130: when the engine is next (log entry 3), the step is the pending word's command on the state with
that input taken, and then BUSY falls and no command is pending (log entry 1); an illegal word is the illegal command; and
withFetchWord makes a word the one performed (log entry 6). -/
def Obligations.StepRunsTheDecodedCommand : Prop :=
  (∀ (s t : State) (i : Instr), Runs i s → exec i (s.withInputs s.inputs.tail) = .next t →
    step s = .next { t with busy := false, pend := none }) ∧
  (∀ (s t : State) (v : Word) (why : IllegalWord), EngineIsNext s → s.pend = some v → decode v = .illegal why →
    execIllegal (s.withInputs s.inputs.tail) = .next t → step s = .next { t with busy := false, pend := none }) ∧
  (∀ (s : State) (w : Nat) (i : Instr), decodeTableWord 64 w = some i → Runs i (s.withFetchWord 64 w))

/-- 41_commands.md R138, 60_exceptions.md R173: an illegal word records ILLEGAL_CMD (2) if ERR was 0 and has no other
effect, in either phase. -/
def Obligations.IllegalWordOnlyRecordsTheError : Prop :=
  ∀ (s : State) (v : Word), ¬ legal v → performWord v s = .next { s with err := if s.err = 0 then 2 else s.err }

/-- 60_exceptions.md R185, 41_commands.md R133: idle with nothing to do, the engine keeps its state; and from an idle state
the whole command nop leaves the state as it was (log entries 1 and 3). -/
def Obligations.IdleEngineKeepsItsState : Prop :=
  (∀ s : State, s.busy = false → s.inputs = [] → s.waiting = [] → step s = .next s) ∧
    ∀ s : State, s.busy = false → s.pend = none → step (s.withPending 0x0000000000000000) = .next s

/-- From every state whose BUSY and PEND agree, a step answers a next state: the spec has no stuck case
(93_implementation_defined.md, Part 1). -/
def Obligations.EveryStepAnswers : Prop :=
  ∀ s : State, PendMatchesBusy s → ∃ t, step s = .next t

/-! ### The commands -/

/-- 41_commands.md R133: only the word 0 is nop, and nop has no effect, in any phase and whatever ERR is. -/
def Obligations.NopLeavesTheStateUnchanged : Prop :=
  (∀ v : Word, decode v = .command .nop ↔ v = 0x0000000000000000) ∧ ∀ s : State, exec .nop s = .next s

/-- 41_commands.md R134: the word of init; what init writes, and that it writes nothing else; the engine has then absorbed
the empty message, whatever it had absorbed before; twice is as once. -/
def Obligations.InitWritesTheListedElements : Prop :=
  (∀ v : Word, decode v = .command .init ↔ v = 0x0000000001000000) ∧
  (∀ s : State, exec .init s = .next { s with
    h := ⟨0xcbbb9d5dc1059ed8, 0x629a292a367cd507, 0x9159015a3070dd17, 0x152fecd8f70e5939,
      0x67332667ffc00b31, 0x8eb44a8768581511, 0xdb0c2e0d64f98fa7, 0x47b5481dbefa4fa4⟩,
    bufLen := 0, len := 0, final := false, err := 0, digest := ⟨0, 0, 0, 0, 0, 0⟩ }) ∧
  (∀ s t : State, exec .init s = .next t → exec .init t = .next t) ∧
  ∀ s : State, ∃ t, exec .init s = .next t ∧ Absorbed [] t

/-- 41_commands.md R135: absorb n, for n = 0..8, and its word. Absorbing and below 2^128 bits, it appends the first n lanes
of DATA_IN to the buffered bytes, compresses the buffer once if they reach 128, and advances BUF_LEN and LEN; finalized, it
raises INVALID_STATE; at 2^128 bits, LENGTH_OVERFLOW. -/
def Obligations.AbsorbTakesTheFirstLanes : Prop :=
  ∀ (s : State) (n : BitVec 4), n.toNat ≤ 8 →
    (∀ v : Word, decode v = .command (.absorb n) ↔ v = 0x0000000002000000 ||| n.setWidth 64) ∧
    (s.final = false → s.len.toNat + 8 * n.toNat < 2 ^ 128 →
      ∃ t, exec (.absorb n) s = .next t ∧
        t.bufLen.toNat = (s.bufLen.toNat + n.toNat) % 128 ∧ t.len.toNat = s.len.toNat + 8 * n.toNat ∧
        (s.bufLen.toNat + n.toNat < 128 → t.h = s.h ∧ t.dp = s.dp ∧
          bufferedBytes t = bufferedBytes s ++ (List.range n.toNat).map fun i => s.dataIn.extractLsb' (56 - 8 * i) 8) ∧
        (128 ≤ s.bufLen.toNat + n.toNat →
          t.h = compress s.h (blockOf (bufferedBytes s ++
            (List.range n.toNat).map fun i => s.dataIn.extractLsb' (56 - 8 * i) 8) 0) ∧
          bufferedBytes t = (bufferedBytes s ++
            (List.range n.toNat).map fun i => s.dataIn.extractLsb' (56 - 8 * i) 8).drop 128) ∧
        t.final = false ∧ t.err = s.err ∧ t.busy = s.busy ∧ t.pend = s.pend ∧ t.dataIn = s.dataIn ∧
        t.digest = s.digest ∧ SameQueues s t) ∧
    (s.final = true → exec (.absorb n) s = .next { s with err := if s.err = 0 then 1 else s.err }) ∧
    (s.final = false → 2 ^ 128 ≤ s.len.toNat + 8 * n.toNat →
      exec (.absorb n) s = .next { s with err := if s.err = 0 then 3 else s.err })

/-- 41_commands.md R136: absorb.b, for every byte, and its word: as absorb of that one byte; DATA_IN is neither read nor
changed. -/
def Obligations.AbsorbByteTakesTheImmediate : Prop :=
  ∀ (s : State) (m : Byte),
    (∀ v : Word, decode v = .command (.absorbB m) ↔ v = 0x0000000003000000 ||| m.setWidth 64) ∧
    (s.final = false → s.len.toNat + 8 < 2 ^ 128 →
      ∃ t, exec (.absorbB m) s = .next t ∧
        t.bufLen.toNat = (s.bufLen.toNat + 1) % 128 ∧ t.len.toNat = s.len.toNat + 8 ∧
        (s.bufLen.toNat < 127 → t.h = s.h ∧ t.dp = s.dp ∧ bufferedBytes t = bufferedBytes s ++ [m]) ∧
        (s.bufLen.toNat = 127 → t.h = compress s.h (blockOf (bufferedBytes s ++ [m]) 0) ∧ bufferedBytes t = []) ∧
        t.final = false ∧ t.err = s.err ∧ t.busy = s.busy ∧ t.pend = s.pend ∧ t.dataIn = s.dataIn ∧
        t.digest = s.digest ∧ SameQueues s t) ∧
    (s.final = true → exec (.absorbB m) s = .next { s with err := if s.err = 0 then 1 else s.err }) ∧
    (s.final = false → 2 ^ 128 ≤ s.len.toNat + 8 →
      exec (.absorbB m) s = .next { s with err := if s.err = 0 then 3 else s.err }) ∧
    ∀ (v : Word) (t : State), exec (.absorbB m) s = .next t →
      exec (.absorbB m) { s with dataIn := v } = .next { t with dataIn := v }

/-- 41_commands.md R137, with Pad of R132 written out: the word of final; final pads, compresses one block (BUF_LEN <= 111)
or two, latches H[0..5] and sets FINAL; finalized already, it has no effect. -/
def Obligations.FinalPadsAndLatches : Prop :=
  (∀ v : Word, decode v = .command .final ↔ v = 0x0000000004000000) ∧
  ∀ s : State,
    (s.final = true → exec .final s = .next s) ∧
    (s.final = false → ∃ t, exec .final s = .next t ∧
      (s.bufLen.toNat ≤ 111 → t.h = compress s.h (Vector.ofFn fun i =>
        if i.val < s.bufLen.toNat then s.buf[i] else if i.val = s.bufLen.toNat then 0x80
        else if i.val < 112 then 0x00 else s.len.extractLsb' (8 * (127 - i.val)) 8)) ∧
      (112 ≤ s.bufLen.toNat → t.h = compress (compress s.h (Vector.ofFn fun i =>
        if i.val < s.bufLen.toNat then s.buf[i] else if i.val = s.bufLen.toNat then 0x80 else 0x00))
        (Vector.ofFn fun i => if i.val < 112 then 0x00 else s.len.extractLsb' (8 * (127 - i.val)) 8)) ∧
      t.digest = ⟨t.h.h0, t.h.h1, t.h.h2, t.h.h3, t.h.h4, t.h.h5⟩ ∧ t.final = true ∧ t.bufLen = 0 ∧
      t.len = s.len ∧ t.err = s.err ∧ t.busy = s.busy ∧ t.pend = s.pend ∧ t.dataIn = s.dataIn ∧ SameQueues s t)

/-- 60_exceptions.md R172: when FINAL = 1, a legal absorb, for every n including 0, and absorb.b record INVALID_STATE (1) if
ERR was 0 and have no other effect, whatever the length. Nothing else raises it: after init, nop, final or an illegal word, and
after absorb or absorb.b with FINAL = 0, ERR is 1 only where it was 1 before. -/
def Obligations.InvalidStateIsRaisedAfterFinal : Prop :=
  ∀ (s : State) (v : Word),
    (s.final = true → (∃ n, decode v = .command (.absorb n)) ∨ (∃ m, decode v = .command (.absorbB m)) →
      performWord v s = .next { s with err := if s.err = 0 then 1 else s.err }) ∧
    (decode v = .command .init ∨ decode v = .command .nop ∨ decode v = .command .final ∨ ¬ legal v ∨
        (s.final = false ∧ ((∃ n, decode v = .command (.absorb n)) ∨ ∃ m, decode v = .command (.absorbB m))) →
      ∃ t, performWord v s = .next t ∧ (t.err = 1 → s.err = 1))

/-- 60_exceptions.md R174: when FINAL = 0 and the length would reach 2^128, a legal absorb n (n = NBYTES) and absorb.b (n =
1) record LENGTH_OVERFLOW (3) if ERR was 0 and have no other effect: nothing is absorbed. -/
def Obligations.LengthOverflowAbsorbsNothing : Prop :=
  ∀ (s : State) (v : Word), s.final = false →
    ∀ n : Nat, (∃ c : BitVec 4, decode v = .command (.absorb c) ∧ n = c.toNat) ∨
        (∃ m, decode v = .command (.absorbB m)) ∧ n = 1 →
      2 ^ 128 ≤ s.len.toNat + 8 * n →
        performWord v s = .next { s with err := if s.err = 0 then 3 else s.err }

/-- The model's own reading (log entry 7): a term `absorb n` with n = 9..15, which no word decodes to, acts as the illegal
command its encoding is (41_commands.md R138). -/
def Obligations.AbsorbAboveEightIsIllegal : Prop :=
  ∀ (s : State) (n : BitVec 4), 8 < n.toNat →
    (∀ v : Word, decode v ≠ .command (.absorb n)) ∧ decode (encode (.absorb n)) = .illegal .byteCount ∧
      exec (.absorb n) s = .next { s with err := if s.err = 0 then 2 else s.err }

/-- What no command touches: DATA_IN (10_state.md R27), BUSY, PEND and the port's queues. -/
def Obligations.CommandsLeaveThePortSideAlone : Prop :=
  ∀ (i : Instr) (s t : State), exec i s = .next t →
    t.dataIn = s.dataIn ∧ t.busy = s.busy ∧ t.pend = s.pend ∧ SameQueues s t

/-- The frame of BUF: absorb and absorb.b store their bytes at `(BUF_LEN + i) mod 128` and every other byte of BUF keeps its
value (41_commands.md R131); nop, init and a final with FINAL = 1 store nothing. What a byte at or above the new BUF_LEN holds
(after a compression: every byte) is the model's choice (log entry 9): the spec leaves those bytes to any value (10_state.md
R22). -/
def Obligations.BufferFrame : Prop :=
  (∀ (s t : State) (n : BitVec 4), exec (.absorb n) s = .next t →
    ∀ j : Fin 128, (∀ i : Nat, i < n.toNat → (s.bufLen.toNat + i) % 128 ≠ j.val) → t.buf[j] = s.buf[j]) ∧
  (∀ (s t : State) (n : BitVec 4), n.toNat ≤ 8 → s.final = false → s.len.toNat + 8 * n.toNat < 2 ^ 128 →
    exec (.absorb n) s = .next t →
    ∀ i : Nat, i < n.toNat →
      t.buf[(s.bufLen.toNat + i) % 128]'(Nat.mod_lt _ (by decide)) = s.dataIn.extractLsb' (56 - 8 * i) 8) ∧
  (∀ (s t : State) (m : Byte), exec (.absorbB m) s = .next t →
    ∀ j : Fin 128, s.bufLen.toNat ≠ j.val → t.buf[j] = s.buf[j]) ∧
  (∀ (s t : State) (m : Byte), s.final = false → s.len.toNat + 8 < 2 ^ 128 → exec (.absorbB m) s = .next t →
    t.buf[s.bufLen.toNat]'(s.bufLen.isLt) = m) ∧
  (∀ s t : State, exec .nop s = .next t → t.buf = s.buf) ∧
  (∀ s t : State, exec .init s = .next t → t.buf = s.buf) ∧
  (∀ s t : State, s.final = true → exec .final s = .next t → t.buf = s.buf)

/-! ### The datapath -/

/-- 40_compression.md R101, R106, R107, bit by bit: ROTR moves bit i+n to bit i round the word, SHR shifts zeros in, Ch
selects, Maj takes the majority. -/
def Obligations.BitwisePrimitivesBitByBit : Prop :=
  ∀ (x y z : Word) (n i : Nat), 1 ≤ n → n ≤ 63 → i < 64 →
    (rotr x n).getLsbD i = x.getLsbD ((i + n) % 64) ∧
    (shr x n).getLsbD i = (decide (i + n < 64) && x.getLsbD (i + n)) ∧
    (ch x y z).getLsbD i = (if x.getLsbD i then y.getLsbD i else z.getLsbD i) ∧
    (maj x y z).getLsbD i =
      decide (2 ≤ (x.getLsbD i).toNat + (y.getLsbD i).toNat + (z.getLsbD i).toNat)

/-- 40_compression.md R102 to R105: the four sigma functions as XORs of rotations and shifts, and the worked examples. -/
def Obligations.SigmaFunctions : Prop :=
  (∀ x : Word,
    smallSigma0 x = x.rotateRight 1 ^^^ x.rotateRight 8 ^^^ (x >>> 7) ∧
    smallSigma1 x = x.rotateRight 19 ^^^ x.rotateRight 61 ^^^ (x >>> 6) ∧
    bigSigma0 x = x.rotateRight 28 ^^^ x.rotateRight 34 ^^^ x.rotateRight 39 ∧
    bigSigma1 x = x.rotateRight 14 ^^^ x.rotateRight 18 ^^^ x.rotateRight 41) ∧
  smallSigma0 1 = 0x8100000000000000 ∧ smallSigma1 1 = 0x0000200000000008 ∧
  bigSigma0 1 = 0x0000001042000000 ∧ bigSigma1 1 = 0x0004400000800000

/-- 40_compression.md R108, R109: the schedule's parse and recurrence, at every index. -/
def Obligations.ScheduleParsesAndRecurs : Prop :=
  ∀ blk : Block,
    (∀ t : Fin 16, (schedule blk)[t.val] =
      be64 blk[8 * t.val] blk[8 * t.val + 1] blk[8 * t.val + 2] blk[8 * t.val + 3]
        blk[8 * t.val + 4] blk[8 * t.val + 5] blk[8 * t.val + 6] blk[8 * t.val + 7]) ∧
    (∀ n : Fin 64, (schedule blk)[n.val + 16] =
      smallSigma1 (schedule blk)[n.val + 14] + (schedule blk)[n.val + 9] +
        smallSigma0 (schedule blk)[n.val + 1] + (schedule blk)[n.val])

/-- 40_compression.md R110: the 16-entry window supplies the same W[t] to round t as the eighty words, for every t. -/
def Obligations.WindowSuppliesTheSchedule : Prop :=
  ∀ (blk : Block) (t : Fin 80), windowWord blk t.val = (schedule blk)[t]

/-- 40_compression.md R115: the schedule adder, and the four adders of a round (R114), give the same words as any trees of
two-operand adders over the same operands, whatever the trees' shapes and the order of the operands; so K[t] + W[t] may be
added a round early. (Carry-save forms are not spoken of.) -/
def Obligations.RoundIsAnyAdderTree : Prop :=
  (∀ (w2 w7 w15 w16 : Word) (x : AdderTree),
    x.operands.Perm [smallSigma1 w2, w7, smallSigma0 w15, w16] → scheduleAdder w2 w7 w15 w16 = x.sum) ∧
  ∀ (t : Fin 80) (v : WorkRegs) (wt : Word) (t1 t2 newA newE : AdderTree),
    t1.operands.Perm [v.h, bigSigma1 v.e, ch v.e v.f v.g, roundConstants[t], wt] →
    t2.operands.Perm [bigSigma0 v.a, maj v.a v.b v.c] →
    newA.operands.Perm [t1.sum, t2.sum] → newE.operands.Perm [v.d, t1.sum] →
    roundStep t v wt =
      { a := newA.sum, b := v.a, c := v.b, d := v.c, e := newE.sum, f := v.e, g := v.f, h := v.g }

/-- 40_compression.md R100: Compress is the load, the rounds t = 0..79 in order on the schedule's words, and the
feed-forward. -/
def Obligations.CompressIsEightyRounds : Prop :=
  ∀ (h : HashRegs) (blk : Block),
    ∃ v : WorkRegs,
      v = (List.finRange 80).foldl (fun x t => roundStep t x (schedule blk)[t])
        ⟨h.h0, h.h1, h.h2, h.h3, h.h4, h.h5, h.h6, h.h7⟩ ∧
      compress h blk = ⟨h.h0 + v.a, h.h1 + v.b, h.h2 + v.c, h.h3 + v.d,
        h.h4 + v.e, h.h5 + v.f, h.h6 + v.g, h.h7 + v.h⟩

/-- 95_test_vectors.md V1, V2 (90_conflicts.md C1): final straight after reset latches the empty-string digest, and the
digest of "abc" is the published one. -/
def Obligations.KnownAnswers : Prop :=
  (∃ t, exec .final State.reset = .next t ∧
    t.digest = ⟨0x38b060a751ac9638, 0x4cd9327eb1b1e36a, 0x21fdb71114be0743,
      0x4c0cc7bf63f6e1da, 0x274edebfe76f65fb, 0xd51ad2f14898b95b⟩) ∧
  sha384 [0x61, 0x62, 0x63] = ⟨0xcb00753f45a35e8b, 0xb5a03d699ac65007, 0x272c32ab0eded163,
      0x1a8b605a43ff5bed, 0x8086072ba1e7cc23, 0x58baeca134c825a7⟩

/-! ### The message and its digest -/

/-- 41_commands.md R131, R135, R136: absorb n takes an engine that has absorbed `msg` to one that has absorbed `msg` and the
first n lanes of DATA_IN; absorb.b takes it to one that has absorbed `msg` and the byte. -/
def Obligations.AbsorbExtendsTheMessage : Prop :=
  (∀ (msg : List Byte) (s : State) (n : BitVec 4), Absorbed msg s → n.toNat ≤ 8 →
    8 * (msg.length + n.toNat) < 2 ^ 128 →
    ∃ t, exec (.absorb n) s = .next t ∧ Absorbed (msg ++ lanes s.dataIn n.toNat) t) ∧
  ∀ (msg : List Byte) (s : State) (m : Byte), Absorbed msg s → 8 * (msg.length + 1) < 2 ^ 128 →
    ∃ t, exec (.absorbB m) s = .next t ∧ Absorbed (msg ++ [m]) t

/-- 41_commands.md R142: final on an engine that has absorbed `msg` latches SHA-384 of `msg`. -/
def Obligations.FinalLatchesTheDigest : Prop :=
  ∀ (msg : List Byte) (s : State), Absorbed msg s →
    ∃ t, exec .final s = .next t ∧ t.final = true ∧ t.digest = sha384 msg

/-- 41_commands.md R140, chunk invariance: any two splits of one byte sequence into chunks, absorbed with no error, leave
the same H, BUF[0..BUF_LEN-1], BUF_LEN and LEN. That the rest of the state is the same too, BUF at and above BUF_LEN and a..h, W
and T after a compression among it, is the model's choice (log entry 9): the spec leaves those elements to any value (10_state.md
R22, 93_implementation_defined.md I14). -/
def Obligations.ChunkInvariance : Prop :=
  ∀ (s : State) (cs ds : List (List Byte)), cs.flatten = ds.flatten → s.final = false →
    s.len.toNat + 8 * cs.flatten.length < 2 ^ 128 →
    cs.foldl State.absorbBytes s = ds.foldl State.absorbBytes s

/-- 41_commands.md R132: the padded length is the least multiple of 128 that is at least the message length plus 17. -/
def Obligations.PaddedLengthIsLeast : Prop :=
  ∀ msg : List Byte,
    (padMessage msg).length % 128 = 0 ∧ msg.length + 17 ≤ (padMessage msg).length ∧
      ∀ m : Nat, m % 128 = 0 → msg.length + 17 ≤ m → (padMessage msg).length ≤ m

/-! ### Output -/

/-- 42_output.md R160: the digest bytes are the latch words, each big-endian, and there are 48. A host keeps the bytes of a word
in the places that HOST_BYTE_ORDER says (00_scope.md R5; log entry 12) and loads a word it stored; whatever that order, its
software splits the six DIGEST words in r1..r6 into the digest bytes in their order (20_memory.md R59). -/
def Obligations.DigestBytesAreBigEndian : Prop :=
  (∀ d : DigestRegs, (digestBytes d).length = 48 ∧
    ∀ k : Fin 6,
      be64 ((digestBytes d).getD (8 * k.val) 0) ((digestBytes d).getD (8 * k.val + 1) 0)
        ((digestBytes d).getD (8 * k.val + 2) 0) ((digestBytes d).getD (8 * k.val + 3) 0)
        ((digestBytes d).getD (8 * k.val + 4) 0) ((digestBytes d).getD (8 * k.val + 5) 0)
        ((digestBytes d).getD (8 * k.val + 6) 0) ((digestBytes d).getD (8 * k.val + 7) 0) = d.word k) ∧
  ∀ o : HostByteOrder,
    (∀ (v : Word) (p : Fin 8), (storeWord o v)[p] = v.extractLsb' (56 - 8 * (o p).val) 8) ∧
    (∀ v : Word, loadWord o (storeWord o v) = v) ∧
    ∀ x : HostState, digestIntoArray o x = ardDigest x

/-- 42_output.md R163: the hex text has 96 characters; characters 2i and 2i+1 are the lowercase digits of the high and the low
nibble of D[i]. -/
def Obligations.HexTextWritesEachByteHighNibbleFirst : Prop :=
  ∀ d : DigestRegs, (digestHex d).length = 96 ∧ ∀ i : Fin 48,
    (digestHex d)[2 * i.val]? = "0123456789abcdef".toList[((digestBytes d).getD i.val 0).toNat / 16]? ∧
      (digestHex d)[2 * i.val + 1]? = "0123456789abcdef".toList[((digestBytes d).getD i.val 0).toNat % 16]?

/-! ### The port -/

/-- 20_memory.md R52 to R54: the port decides every access by these tests in this order: width, alignment, mapping, access
set, hold; an access that passes them is performed. -/
def Obligations.PortDecidesInOrder : Prop :=
  ∀ (a : Access) (s : State),
    (a.width ≠ 64 → portAccess a s = .busError .width) ∧
    (a.width = 64 → a.off.toNat % 8 ≠ 0 → portAccess a s = .busError .align) ∧
    (a.width = 64 → a.off.toNat ∈ [0x28, 0x30, 0x38, 0x70, 0x78] → portAccess a s = .busError .unmapped) ∧
    (a.width = 64 → a.dir = .read → a.off.toNat = 0x00 → portAccess a s = .busError .access) ∧
    (a.width = 64 → a.dir = .write → a.off.toNat ∈ [0x10, 0x18, 0x20, 0x40, 0x48, 0x50, 0x58, 0x60, 0x68] →
      portAccess a s = .busError .access) ∧
    (a.width = 64 → a.dir = .write → a.off.toNat ∈ [0x00, 0x08] →
      if s.busy then portAccess a s = .hold else ∃ t, portAccess a s = .writeDone t) ∧
    (a.width = 64 → a.dir = .read → a.off.toNat ∈ [0x08, 0x18, 0x20, 0x40, 0x48, 0x50, 0x58, 0x60, 0x68] →
      if s.busy then portAccess a s = .hold else ∃ v, portAccess a s = .readDone v) ∧
    (a.width = 64 → a.dir = .read → a.off.toNat = 0x10 → ∃ v, portAccess a s = .readDone v)

/-- 20_memory.md R54, R61: the access served is its host's oldest; it leaves with its answer, and a performed write leaves
what the port wrote (log entries 3 and 5). -/
def Obligations.ServedAccessIsAnswered : Prop :=
  ∀ (s : State) (a : Access) (rest : List Input), s.inputs = .serve a.host :: rest → s.oldestOf a.host = some a →
    (∀ v, portAccess a (s.withInputs rest) = .readDone v → step s = .next { s with
      inputs := rest
      waiting := s.waiting.eraseP (fun b => b.host == a.host)
      responses := s.responses ++ [⟨a.host, .value v⟩] }) ∧
    (∀ t, portAccess a (s.withInputs rest) = .writeDone t → step s = .next { t with
      waiting := s.waiting.eraseP (fun b => b.host == a.host)
      responses := s.responses ++ [⟨a.host, .written⟩] })

/-- 60_exceptions.md R177: the bus errors, in the order of 20_memory.md R54, whatever BUSY is; the access leaves with its
error and nothing else changes (log entries 3, 4 and 5). -/
def Obligations.BusErrorsChangeNothing : Prop :=
  ∀ (s : State) (a : Access) (rest : List Input), s.inputs = .serve a.host :: rest → s.oldestOf a.host = some a →
    ∀ reason : BusError,
      (a.width ≠ 64 ∧ reason = .width ∨
        a.width = 64 ∧ a.off.toNat % 8 ≠ 0 ∧ reason = .align ∨
        a.width = 64 ∧ a.off.toNat ∈ [0x28, 0x30, 0x38, 0x70, 0x78] ∧ reason = .unmapped ∨
        a.width = 64 ∧ a.dir = .read ∧ a.off.toNat = 0x00 ∧ reason = .access ∨
        a.width = 64 ∧ a.dir = .write ∧
          a.off.toNat ∈ [0x10, 0x18, 0x20, 0x40, 0x48, 0x50, 0x58, 0x60, 0x68] ∧ reason = .access) →
      step s = .next { s with
        inputs := rest
        waiting := s.waiting.eraseP (fun b => b.host == a.host)
        responses := s.responses ++ [⟨a.host, .busError reason⟩] }

/-- 20_memory.md R57: while BUSY = 1 these accesses wait without effect, and a STATUS read does not wait (log entry 3). -/
def Obligations.HeldAccessesWaitWithoutEffect : Prop :=
  ∀ (s : State) (a : Access) (rest : List Input), s.busy = true → s.inputs = .serve a.host :: rest →
    s.oldestOf a.host = some a → a.width = 64 →
    (a.dir = .write ∧ a.off.toNat ∈ [0x00, 0x08] ∨
      a.dir = .read ∧ a.off.toNat ∈ [0x08, 0x18, 0x20, 0x40, 0x48, 0x50, 0x58, 0x60, 0x68] →
      step s = .next { s with inputs := rest }) ∧
    (a.dir = .read ∧ a.off.toNat = 0x10 →
      ∃ t v, step s = .next t ∧ t.responses = s.responses ++ [⟨a.host, .value v⟩] ∧ SameCommitted s t ∧
        t.busy = true ∧ t.pend = s.pend)

/-- 20_memory.md R56: what a read that passed the port's tests returns, by offset. -/
def Obligations.PortReadsReturnTheRegister : Prop :=
  ∀ (a : Access) (s : State), a.width = 64 → a.dir = .read → s.busy = false ∨ a.off.toNat = 0x10 →
    (a.off.toNat = 0x08 → portAccess a s = .readDone s.dataIn) ∧
    (a.off.toNat = 0x10 → portAccess a s =
      .readDone ((s.bufLen ++ s.err ++ 0#2 ++ BitVec.ofBool s.final ++ BitVec.ofBool s.busy).setWidth 64)) ∧
    (a.off.toNat = 0x18 → portAccess a s = .readDone (s.len.extractLsb' 0 64)) ∧
    (a.off.toNat = 0x20 → portAccess a s = .readDone (s.len.extractLsb' 64 64)) ∧
    (a.off.toNat = 0x40 → portAccess a s = .readDone s.digest.d0) ∧
    (a.off.toNat = 0x48 → portAccess a s = .readDone s.digest.d1) ∧
    (a.off.toNat = 0x50 → portAccess a s = .readDone s.digest.d2) ∧
    (a.off.toNat = 0x58 → portAccess a s = .readDone s.digest.d3) ∧
    (a.off.toNat = 0x60 → portAccess a s = .readDone s.digest.d4) ∧
    (a.off.toNat = 0x68 → portAccess a s = .readDone s.digest.d5)

/-- 20_memory.md R55: a write to CMD that passed the port's tests sets PEND and BUSY, one to DATA_IN sets DATA_IN, neither
changes anything else, and no other offset is writable. -/
def Obligations.PortWritesStoreTheValue : Prop :=
  ∀ (a : Access) (s : State), a.width = 64 → a.dir = .write →
    (s.busy = false → a.off.toNat = 0x00 → portAccess a s = .writeDone { s with pend := some a.value, busy := true }) ∧
    (s.busy = false → a.off.toNat = 0x08 → portAccess a s = .writeDone { s with dataIn := a.value }) ∧
    (a.off.toNat ≠ 0x00 → a.off.toNat ≠ 0x08 → ∃ reason, portAccess a s = .busError reason)

/-- 10_state.md R30, R31: the fields of STATUS, its reserved bits 0, and LEN_HI ++ LEN_LO = LEN. -/
def Obligations.StatusAndLengthViews : Prop :=
  ∀ s : State,
    (statusWord s).toNat = s.bufLen.toNat * 2 ^ 8 + s.err.toNat * 2 ^ 4 + s.final.toNat * 2 + s.busy.toNat ∧
    (statusWord s).extractLsb' 2 2 = 0 ∧ (statusWord s).extractLsb' 15 49 = 0 ∧
    lenHigh s ++ lenLow s = s.len

/-- 20_memory.md R61: seen by one host, a step leaves its waiting accesses as they are, answers the oldest, or adds one at
the end; its accesses are answered in the order it issued them. -/
def Obligations.EachHostIsServedInOrder : Prop :=
  ∀ (s t : State) (host : Nat), step s = .next t →
    (t.waiting.filter (fun a => a.host == host) = s.waiting.filter (fun a => a.host == host) ∧
      t.responses.filter (fun r => r.host == host) = s.responses.filter (fun r => r.host == host)) ∨
    (∃ a r, s.waiting.filter (fun b => b.host == host) = a :: t.waiting.filter (fun b => b.host == host) ∧
      t.responses = s.responses ++ [⟨host, r⟩]) ∨
    (∃ a, a.host = host ∧
      t.waiting.filter (fun b => b.host == host) = s.waiting.filter (fun b => b.host == host) ++ [a] ∧
      t.responses = s.responses)

/-! ### Rules of the whole machine -/

/-- 10_state.md R25: a recorded error stays until init or reset clears it. -/
def Obligations.FirstErrorStays : Prop :=
  ∀ s t : State, step s = .next t → s.err ≠ 0 →
    t.err = s.err ∨ (t.err = 0 ∧ (TakesReset s ∨ Runs .init s))

/-- 10_state.md R21: H is written only by init, by reset and by the commands that compress. -/
def Obligations.HashRegistersHaveFewWriters : Prop :=
  ∀ s t : State, step s = .next t → t.h ≠ s.h →
    TakesReset s ∨ Runs .init s ∨ (∃ n, Runs (.absorb n) s) ∨ (∃ m, Runs (.absorbB m) s) ∨ Runs .final s

/-- 10_state.md R28: DIGEST is written by final, with H[0..5] after the last compression, and cleared by init and reset; no
other event writes it. -/
def Obligations.DigestHasThreeWriters : Prop :=
  ∀ s t : State, step s = .next t →
    (t.digest ≠ s.digest → TakesReset s ∨ Runs .init s ∨ Runs .final s) ∧
    (TakesReset s ∨ Runs .init s → t.digest = ⟨0, 0, 0, 0, 0, 0⟩) ∧
    (Runs .final s → s.final = false → t.digest = ⟨t.h.h0, t.h.h1, t.h.h2, t.h.h3, t.h.h4, t.h.h5⟩)

/-- 10_state.md R24: final sets FINAL, init and reset clear it, nothing else changes it. -/
def Obligations.PhaseHasThreeWriters : Prop :=
  ∀ s t : State, step s = .next t →
    (t.final ≠ s.final → TakesReset s ∨ Runs .init s ∨ Runs .final s) ∧
    (TakesReset s ∨ Runs .init s → t.final = false) ∧ (Runs .final s → t.final = true)

/-- 10_state.md R27: DATA_IN changes only by reset and by a host's 64-bit write to offset 0x08 while BUSY = 0, to the value
written; the engine never writes it. -/
def Obligations.DataInHasTwoWriters : Prop :=
  ∀ s t : State, step s = .next t → t.dataIn ≠ s.dataIn →
    (TakesReset s ∧ t.dataIn = 0) ∨
    ∃ a, Serves a s ∧ a.dir = .write ∧ a.off.toNat = 0x08 ∧ a.width = 64 ∧ s.busy = false ∧ t.dataIn = a.value

/-- 60_exceptions.md R174, 10_state.md R23: LEN goes down only by init and reset: it never wraps. -/
def Obligations.LengthNeverWraps : Prop :=
  ∀ s t : State, step s = .next t → t.len.toNat < s.len.toNat → TakesReset s ∨ Runs .init s

/-- 20_memory.md R57, R60, 10_state.md R30: while a command stays pending nothing committed changes, and PEND does not
either. That BUF at and above BUF_LEN, a..h, W and T keep their values too is the model's choice (log entry 9). -/
def Obligations.PendingCommandIsInvisible : Prop :=
  ∀ s t : State, step s = .next t → s.busy = true → t.busy = true → SameCommitted s t ∧ t.pend = s.pend

/-- Every step keeps the invariant: PEND holds a word exactly while BUSY = 1, ERR is at most 3, LEN counts bytes, BUF_LEN and
the latch are as the phase asks. That PEND is none once BUSY = 0 is the model's choice (log entry 1, DEDUCED), not 10_state.md
R26, which says only that PEND has no meaning then; the rest are the spec's rules. -/
def Obligations.InvariantIsKeptByEveryStep : Prop :=
  ∀ s t : State, EngineInv s → step s = .next t → EngineInv t

/-- The invariant holds after reset. -/
def Obligations.InvariantHoldsAtReset : Prop := EngineInv State.reset

/-- 70_reset_and_hazards.md R199: a pending command completes after finitely many steps, at most one more than the inputs
left. -/
def Obligations.BusyAlwaysFalls : Prop :=
  ∀ s : State, PendMatchesBusy s →
    ∃ k t, k ≤ s.inputs.length + 1 ∧ Host.Core.run Sys2Proof.core k s = .next t ∧ t.busy = false

/-- 70_reset_and_hazards.md R199, 20_memory.md R57: with no further input, every waiting access is answered, each once. -/
def Obligations.HeldAccessesAreAnswered : Prop :=
  ∀ s : State, PendMatchesBusy s → s.inputs = [] →
    ∃ k t, k ≤ 2 * s.waiting.length + 1 ∧ Host.Core.run Sys2Proof.core k s = .next t ∧ t.waiting = [] ∧
      t.busy = false ∧ t.responses.length = s.responses.length + s.waiting.length

/-- 10_state.md R22, R33 to R35, 93_implementation_defined.md I14: what the spec leaves unspecified is never read. Two
states that differ only in BUF from BUF_LEN on, a..h, W and T take steps to states that differ only there, and the hosts get
the same answers. -/
def Obligations.HiddenStateIsNeverRead : Prop :=
  ∀ s s' t : State, SameButHidden s s' → step s = .next t →
    ∃ t', step s' = .next t' ∧ SameButHidden t t'

/-! ### Several engines -/

/-- 60_exceptions.md R183, 20_memory.md R50: an event changes no engine but the one it reaches; an access in the window of
instance k is issued to engine k, at the offset of its address from ENGINE_BASE, whatever other windows there are; an access
outside every window reaches none; and with no event left, at most one engine acts in a step (log entry 10). -/
def Obligations.EnginesAreIndependent : Prop :=
  (∀ (p q : Platform) (e : PlatformEvent) (rest : List PlatformEvent), p.events = e :: rest → p.step = .next q →
    q.engines.length = p.engines.length ∧ ∀ j : Nat, p.target e ≠ some j → q.engines[j]? = p.engines[j]?) ∧
  (∀ (p : Platform) (a : BusAccess) (rest : List PlatformEvent) (k : Nat) (s : State), p.events = .bus a :: rest →
    p.engines[k]? = some s → Config.engineBase k ≤ a.addr → a.addr < Config.engineBase k + 0x80 →
    ∃ (q : Platform) (off : BitVec 7), off.toNat = a.addr - Config.engineBase k ∧ p.step = .next q ∧
      q.events = rest ∧ q.engines = p.engines.set k
        { s with waiting := s.waiting ++ [⟨a.host, a.dir, off, a.width, a.value⟩] }) ∧
  (∀ (p : Platform) (a : BusAccess) (rest : List PlatformEvent), p.events = .bus a :: rest →
    (∀ k : Nat, k < p.engines.length → inWindow k a.addr = false) →
    ∃ q, p.step = .next q ∧ q.engines = p.engines) ∧
  (∀ p q : Platform, p.events = [] → p.step = .next q →
    ∃ k : Nat, ∀ j : Nat, j ≠ k → q.engines[j]? = p.engines[j]?)

/-! ### The host's programs -/

/-- 30_encoding.md R89, R90, with the words of R88: the expansions of `cmd`, `absorb.q`, `wait`, `update`, `update.b`,
`readdigest` and `sha384`; the value of `absorb.q` is a register or an immediate, which is the model's reading of R90 (log
entry 15); an `absorb.q` count above 8 is an assembly error; the chunks of `update B`, at most 8 bytes each,
are B in order, and absorbing a chunk's DATA_IN value with the chunk's length as the count takes the chunk's bytes. Host
software that builds the DATA_IN values from a byte array makes the same `update B`, whatever HOST_BYTE_ORDER is (20_memory.md
R59; log entry 12). -/
def Obligations.PseudoInstructionsExpand : Prop :=
  (∀ c : AsmCommand, cmd c = (assemble c).map fun v => [.wr 0x00 (.imm v)]) ∧
  (∀ (v : WriteSource) (n : Nat), n ≤ 8 →
    absorbQ v n = some [.wr 0x08 v, .wr 0x00 (.imm (0x0000000002000000 ||| BitVec.ofNat 64 n))]) ∧
  (∀ (v : WriteSource) (n : Nat), 8 < n → absorbQ v n = none) ∧
  (∀ l : Nat, waitLoop l = [.rd 6 0x10, .andi 6 6 1, .bnez 6 l]) ∧
  readDigest = [.rd 0 0x40, .rd 1 0x48, .rd 2 0x50, .rd 3 0x58, .rd 4 0x60, .rd 5 0x68] ∧
  ∀ bs : List Byte,
    update bs = some ((List.range ((bs.length + 7) / 8)).flatMap fun j =>
      [.wr 0x08 (.imm (be64 (bs.getD (8 * j) 0) (bs.getD (8 * j + 1) 0) (bs.getD (8 * j + 2) 0) (bs.getD (8 * j + 3) 0)
          (bs.getD (8 * j + 4) 0) (bs.getD (8 * j + 5) 0) (bs.getD (8 * j + 6) 0) (bs.getD (8 * j + 7) 0))),
        .wr 0x00 (.imm (0x0000000002000000 ||| BitVec.ofNat 64 (min 8 (bs.length - 8 * j))))]) ∧
    (∀ o : HostByteOrder, updateFromArray o bs = update bs) ∧
    updateB bs = some (bs.map fun b => .wr 0x00 (.imm (0x0000000003000000 ||| b.setWidth 64))) ∧
    (∃ u, update bs = some u ∧ sha384Program bs = some
      ([.wr 0x00 (.imm 0x0000000001000000)] ++ u ++ [.wr 0x00 (.imm 0x0000000004000000)] ++ readDigest)) ∧
    (List.range ((bs.length + 7) / 8)).flatMap (chunk bs) = bs ∧
    ∀ j : Nat, (chunk bs j).length ≤ 8 ∧ lanes (chunkWord (chunk bs j)) (chunk bs j).length = chunk bs j

/-- 00_scope.md R10: what each host instruction does, `wr` and `rd` as the port decides (20_memory.md R54): performed, held, or
answered with a bus error, on which the host does what HOST_BUS_ERROR_ACTION (R5) says, whatever that is, and has met the error
(60_exceptions.md R177; log entry 4). A host's turn runs the instruction at its place in the program, and a stopped host does
nothing; with no turn chosen a pending command completes before the host goes on (log entry 11). -/
def Obligations.HostInstructionsAct : Prop :=
  (∀ (act : BusErrorAction) (x : HostState) (s : State),
    (∀ rd imm, hostExec act (.li rd imm) x s = ({ x with regs := x.regs.set rd imm, pc := x.pc + 1 }, s)) ∧
    (∀ rd rs imm, hostExec act (.andi rd rs imm) x s =
      ({ x with regs := x.regs.set rd (x.regs[rs] &&& imm), pc := x.pc + 1 }, s)) ∧
    (∀ rd rs imm, hostExec act (.subi rd rs imm) x s =
      ({ x with regs := x.regs.set rd (x.regs[rs] - imm), pc := x.pc + 1 }, s)) ∧
    (∀ rs l, hostExec act (.bnez rs l) x s = ({ x with pc := if x.regs[rs] ≠ 0 then l else x.pc + 1 }, s)) ∧
    hostExec act .halt x s = ({ x with status := .halted }, s) ∧
    (∀ off src v, (src = .imm v ∨ ∃ rs, src = .reg rs ∧ v = x.regs[rs]) →
      (∀ t, portAccess ⟨0, .write, off, 64, v⟩ s = .writeDone t →
        hostExec act (.wr off src) x s = ({ x with pc := x.pc + 1 }, t)) ∧
      (portAccess ⟨0, .write, off, 64, v⟩ s = .hold → hostExec act (.wr off src) x s = (x, s)) ∧
      (∀ r, portAccess ⟨0, .write, off, 64, v⟩ s = .busError r →
        hostExec act (.wr off src) x s = ({ act r x with busError := some r }, s))) ∧
    (∀ rd off,
      (∀ v, portAccess ⟨0, .read, off, 64, 0⟩ s = .readDone v →
        hostExec act (.rd rd off) x s = ({ x with regs := x.regs.set rd v, pc := x.pc + 1 }, s)) ∧
      (portAccess ⟨0, .read, off, 64, 0⟩ s = .hold → hostExec act (.rd rd off) x s = (x, s)) ∧
      (∀ r, portAccess ⟨0, .read, off, 64, 0⟩ s = .busError r →
        hostExec act (.rd rd off) x s = ({ act r x with busError := some r }, s)))) ∧
  (∀ (act : BusErrorAction) (m : Hosted), m.turns.head? = some .host ∨ (m.turns = [] ∧ m.engine.busy = false) →
    (∀ i, m.host.status = .running → m.host.program[m.host.pc]? = some i →
      m.step act = .next
        { host := (hostExec act i m.host m.engine).1, engine := (hostExec act i m.host m.engine).2, turns := m.turns.tail }) ∧
    (m.host.status ≠ .running → m.step act = .next { m with turns := m.turns.tail })) ∧
  ∀ (act : BusErrorAction) (m : Hosted) (t : State), m.turns.head? = some .engine ∨ (m.turns = [] ∧ m.engine.busy = true) →
    engineTurn m.engine = .next t → m.step act = .next { m with engine := t, turns := m.turns.tail }

/-- 41_commands.md R139, R142, 30_encoding.md R90: ARD's operations, as programs that run to a successful end on an idle
engine, no turn chosen (log entry 11). `update` extends the absorbed message and reports InvalidState exactly where ERR is 1;
after finalization it absorbs nothing and, with ERR = 0 and a byte to absorb, reports InvalidState; `finalize` returns the
48 bytes of the message's digest; `sha384` returns those of its bytes from every idle engine. -/
def Obligations.ArdOperationsReturnTheirResults : Prop :=
  (∀ (act : BusErrorAction) (msg bs : List Byte) (s : State), s.busy = false → Absorbed msg s →
    8 * (msg.length + bs.length) < 2 ^ 128 →
    ∃ u k m, ardUpdate 0 bs = some u ∧ Hosted.run act k (Hosted.launch (u ++ [.halt]) s) = .next m ∧
      m.succeeded = true ∧ Absorbed (msg ++ bs) m.engine ∧ m.engine.err = s.err ∧
      (ardUpdateReport m.host = .invalidState ↔ s.err = 1)) ∧
  (∀ (act : BusErrorAction) (bs : List Byte) (s : State), s.busy = false → s.final = true → s.err = 0 → bs ≠ [] →
    ∃ u k m, ardUpdate 0 bs = some u ∧ Hosted.run act k (Hosted.launch (u ++ [.halt]) s) = .next m ∧
      m.succeeded = true ∧ m.engine.digest = s.digest ∧ m.engine.len = s.len ∧
      ardUpdateReport m.host = .invalidState) ∧
  (∀ (act : BusErrorAction) (msg : List Byte) (s : State), s.busy = false → Absorbed msg s →
    ∃ u k m, ardFinalize = some u ∧ Hosted.run act k (Hosted.launch (u ++ [.halt]) s) = .next m ∧
      m.succeeded = true ∧ ardDigest m.host = digestBytes (sha384 msg)) ∧
  ∀ (act : BusErrorAction) (bs : List Byte) (s : State), s.busy = false → 8 * bs.length < 2 ^ 128 →
    ∃ u k m, ardSha384 bs = some u ∧ Hosted.run act k (Hosted.launch (u ++ [.halt]) s) = .next m ∧
      m.succeeded = true ∧ ardDigest m.host = digestBytes (sha384 bs)
end

