-- ==== Sys2Proof/Laws/State.lean ====
section
/-! SUPPORT. What every named update of State does to every field. -/

namespace Sys2Proof.Machine

@[simp] theorem State.raiseError_h (s : State) (e : EngineError) : (s.raiseError e).h = s.h := rfl
@[simp] theorem State.raiseError_buf (s : State) (e : EngineError) : (s.raiseError e).buf = s.buf := rfl
@[simp] theorem State.raiseError_bufLen (s : State) (e : EngineError) : (s.raiseError e).bufLen = s.bufLen := rfl
@[simp] theorem State.raiseError_len (s : State) (e : EngineError) : (s.raiseError e).len = s.len := rfl
@[simp] theorem State.raiseError_final (s : State) (e : EngineError) : (s.raiseError e).final = s.final := rfl
@[simp] theorem State.raiseError_err (s : State) (e : EngineError) : (s.raiseError e).err = recordError s.err e := rfl
@[simp] theorem State.raiseError_busy (s : State) (e : EngineError) : (s.raiseError e).busy = s.busy := rfl
@[simp] theorem State.raiseError_pend (s : State) (e : EngineError) : (s.raiseError e).pend = s.pend := rfl
@[simp] theorem State.raiseError_dataIn (s : State) (e : EngineError) : (s.raiseError e).dataIn = s.dataIn := rfl
@[simp] theorem State.raiseError_digest (s : State) (e : EngineError) : (s.raiseError e).digest = s.digest := rfl
@[simp] theorem State.raiseError_dp (s : State) (e : EngineError) : (s.raiseError e).dp = s.dp := rfl
@[simp] theorem State.raiseError_waiting (s : State) (e : EngineError) : (s.raiseError e).waiting = s.waiting := rfl
@[simp] theorem State.raiseError_inputs (s : State) (e : EngineError) : (s.raiseError e).inputs = s.inputs := rfl
@[simp] theorem State.raiseError_responses (s : State) (e : EngineError) : (s.raiseError e).responses = s.responses := rfl

@[simp] theorem State.complete_h (s : State) : (s.complete).h = s.h := rfl
@[simp] theorem State.complete_buf (s : State) : (s.complete).buf = s.buf := rfl
@[simp] theorem State.complete_bufLen (s : State) : (s.complete).bufLen = s.bufLen := rfl
@[simp] theorem State.complete_len (s : State) : (s.complete).len = s.len := rfl
@[simp] theorem State.complete_final (s : State) : (s.complete).final = s.final := rfl
@[simp] theorem State.complete_err (s : State) : (s.complete).err = s.err := rfl
@[simp] theorem State.complete_busy (s : State) : (s.complete).busy = false := rfl
@[simp] theorem State.complete_pend (s : State) : (s.complete).pend = none := rfl
@[simp] theorem State.complete_dataIn (s : State) : (s.complete).dataIn = s.dataIn := rfl
@[simp] theorem State.complete_digest (s : State) : (s.complete).digest = s.digest := rfl
@[simp] theorem State.complete_dp (s : State) : (s.complete).dp = s.dp := rfl
@[simp] theorem State.complete_waiting (s : State) : (s.complete).waiting = s.waiting := rfl
@[simp] theorem State.complete_inputs (s : State) : (s.complete).inputs = s.inputs := rfl
@[simp] theorem State.complete_responses (s : State) : (s.complete).responses = s.responses := rfl

@[simp] theorem State.resetEngine_h (s : State) : (s.resetEngine).h = State.reset.h := rfl
@[simp] theorem State.resetEngine_buf (s : State) : (s.resetEngine).buf = State.reset.buf := rfl
@[simp] theorem State.resetEngine_bufLen (s : State) : (s.resetEngine).bufLen = State.reset.bufLen := rfl
@[simp] theorem State.resetEngine_len (s : State) : (s.resetEngine).len = State.reset.len := rfl
@[simp] theorem State.resetEngine_final (s : State) : (s.resetEngine).final = State.reset.final := rfl
@[simp] theorem State.resetEngine_err (s : State) : (s.resetEngine).err = State.reset.err := rfl
@[simp] theorem State.resetEngine_busy (s : State) : (s.resetEngine).busy = State.reset.busy := rfl
@[simp] theorem State.resetEngine_pend (s : State) : (s.resetEngine).pend = State.reset.pend := rfl
@[simp] theorem State.resetEngine_dataIn (s : State) : (s.resetEngine).dataIn = State.reset.dataIn := rfl
@[simp] theorem State.resetEngine_digest (s : State) : (s.resetEngine).digest = State.reset.digest := rfl
@[simp] theorem State.resetEngine_dp (s : State) : (s.resetEngine).dp = State.reset.dp := rfl
@[simp] theorem State.resetEngine_waiting (s : State) : (s.resetEngine).waiting = s.waiting := rfl
@[simp] theorem State.resetEngine_inputs (s : State) : (s.resetEngine).inputs = s.inputs := rfl
@[simp] theorem State.resetEngine_responses (s : State) : (s.resetEngine).responses = s.responses := rfl

@[simp] theorem State.withCompressed_h (s : State) (d : Datapath) : (s.withCompressed d).h = feedForward s.h d.work := rfl
@[simp] theorem State.withCompressed_buf (s : State) (d : Datapath) : (s.withCompressed d).buf = s.buf := rfl
@[simp] theorem State.withCompressed_bufLen (s : State) (d : Datapath) : (s.withCompressed d).bufLen = s.bufLen := rfl
@[simp] theorem State.withCompressed_len (s : State) (d : Datapath) : (s.withCompressed d).len = s.len := rfl
@[simp] theorem State.withCompressed_final (s : State) (d : Datapath) : (s.withCompressed d).final = s.final := rfl
@[simp] theorem State.withCompressed_err (s : State) (d : Datapath) : (s.withCompressed d).err = s.err := rfl
@[simp] theorem State.withCompressed_busy (s : State) (d : Datapath) : (s.withCompressed d).busy = s.busy := rfl
@[simp] theorem State.withCompressed_pend (s : State) (d : Datapath) : (s.withCompressed d).pend = s.pend := rfl
@[simp] theorem State.withCompressed_dataIn (s : State) (d : Datapath) : (s.withCompressed d).dataIn = s.dataIn := rfl
@[simp] theorem State.withCompressed_digest (s : State) (d : Datapath) : (s.withCompressed d).digest = s.digest := rfl
@[simp] theorem State.withCompressed_dp (s : State) (d : Datapath) : (s.withCompressed d).dp = d := rfl
@[simp] theorem State.withCompressed_waiting (s : State) (d : Datapath) : (s.withCompressed d).waiting = s.waiting := rfl
@[simp] theorem State.withCompressed_inputs (s : State) (d : Datapath) : (s.withCompressed d).inputs = s.inputs := rfl
@[simp] theorem State.withCompressed_responses (s : State) (d : Datapath) : (s.withCompressed d).responses = s.responses := rfl

@[simp] theorem State.compressBuf_h (s : State) : (s.compressBuf).h = compress s.h s.buf := State.withCompressed_h s _
@[simp] theorem State.compressBuf_buf (s : State) : (s.compressBuf).buf = s.buf := State.withCompressed_buf s _
@[simp] theorem State.compressBuf_bufLen (s : State) : (s.compressBuf).bufLen = s.bufLen := State.withCompressed_bufLen s _
@[simp] theorem State.compressBuf_len (s : State) : (s.compressBuf).len = s.len := State.withCompressed_len s _
@[simp] theorem State.compressBuf_final (s : State) : (s.compressBuf).final = s.final := State.withCompressed_final s _
@[simp] theorem State.compressBuf_err (s : State) : (s.compressBuf).err = s.err := State.withCompressed_err s _
@[simp] theorem State.compressBuf_busy (s : State) : (s.compressBuf).busy = s.busy := State.withCompressed_busy s _
@[simp] theorem State.compressBuf_pend (s : State) : (s.compressBuf).pend = s.pend := State.withCompressed_pend s _
@[simp] theorem State.compressBuf_dataIn (s : State) : (s.compressBuf).dataIn = s.dataIn := State.withCompressed_dataIn s _
@[simp] theorem State.compressBuf_digest (s : State) : (s.compressBuf).digest = s.digest := State.withCompressed_digest s _
@[simp] theorem State.compressBuf_dp (s : State) : (s.compressBuf).dp = Datapath.run s.h s.buf := State.withCompressed_dp s _
@[simp] theorem State.compressBuf_waiting (s : State) : (s.compressBuf).waiting = s.waiting := State.withCompressed_waiting s _
@[simp] theorem State.compressBuf_inputs (s : State) : (s.compressBuf).inputs = s.inputs := State.withCompressed_inputs s _
@[simp] theorem State.compressBuf_responses (s : State) : (s.compressBuf).responses = s.responses := State.withCompressed_responses s _

@[simp] theorem State.putByte_h (s : State) (m : Byte) : (s.putByte m).h = s.h := rfl
@[simp] theorem State.putByte_buf (s : State) (m : Byte) : (s.putByte m).buf = s.buf.set s.bufLen.toNat m s.bufLen.isLt := rfl
@[simp] theorem State.putByte_bufLen (s : State) (m : Byte) : (s.putByte m).bufLen = s.bufLen := rfl
@[simp] theorem State.putByte_len (s : State) (m : Byte) : (s.putByte m).len = s.len := rfl
@[simp] theorem State.putByte_final (s : State) (m : Byte) : (s.putByte m).final = s.final := rfl
@[simp] theorem State.putByte_err (s : State) (m : Byte) : (s.putByte m).err = s.err := rfl
@[simp] theorem State.putByte_busy (s : State) (m : Byte) : (s.putByte m).busy = s.busy := rfl
@[simp] theorem State.putByte_pend (s : State) (m : Byte) : (s.putByte m).pend = s.pend := rfl
@[simp] theorem State.putByte_dataIn (s : State) (m : Byte) : (s.putByte m).dataIn = s.dataIn := rfl
@[simp] theorem State.putByte_digest (s : State) (m : Byte) : (s.putByte m).digest = s.digest := rfl
@[simp] theorem State.putByte_dp (s : State) (m : Byte) : (s.putByte m).dp = s.dp := rfl
@[simp] theorem State.putByte_waiting (s : State) (m : Byte) : (s.putByte m).waiting = s.waiting := rfl
@[simp] theorem State.putByte_inputs (s : State) (m : Byte) : (s.putByte m).inputs = s.inputs := rfl
@[simp] theorem State.putByte_responses (s : State) (m : Byte) : (s.putByte m).responses = s.responses := rfl

@[simp] theorem State.withBufLen_h (s : State) (n : BitVec 7) : (s.withBufLen n).h = s.h := rfl
@[simp] theorem State.withBufLen_buf (s : State) (n : BitVec 7) : (s.withBufLen n).buf = s.buf := rfl
@[simp] theorem State.withBufLen_bufLen (s : State) (n : BitVec 7) : (s.withBufLen n).bufLen = n := rfl
@[simp] theorem State.withBufLen_len (s : State) (n : BitVec 7) : (s.withBufLen n).len = s.len := rfl
@[simp] theorem State.withBufLen_final (s : State) (n : BitVec 7) : (s.withBufLen n).final = s.final := rfl
@[simp] theorem State.withBufLen_err (s : State) (n : BitVec 7) : (s.withBufLen n).err = s.err := rfl
@[simp] theorem State.withBufLen_busy (s : State) (n : BitVec 7) : (s.withBufLen n).busy = s.busy := rfl
@[simp] theorem State.withBufLen_pend (s : State) (n : BitVec 7) : (s.withBufLen n).pend = s.pend := rfl
@[simp] theorem State.withBufLen_dataIn (s : State) (n : BitVec 7) : (s.withBufLen n).dataIn = s.dataIn := rfl
@[simp] theorem State.withBufLen_digest (s : State) (n : BitVec 7) : (s.withBufLen n).digest = s.digest := rfl
@[simp] theorem State.withBufLen_dp (s : State) (n : BitVec 7) : (s.withBufLen n).dp = s.dp := rfl
@[simp] theorem State.withBufLen_waiting (s : State) (n : BitVec 7) : (s.withBufLen n).waiting = s.waiting := rfl
@[simp] theorem State.withBufLen_inputs (s : State) (n : BitVec 7) : (s.withBufLen n).inputs = s.inputs := rfl
@[simp] theorem State.withBufLen_responses (s : State) (n : BitVec 7) : (s.withBufLen n).responses = s.responses := rfl

@[simp] theorem State.addLen_h (s : State) (n : Nat) : (s.addLen n).h = s.h := rfl
@[simp] theorem State.addLen_buf (s : State) (n : Nat) : (s.addLen n).buf = s.buf := rfl
@[simp] theorem State.addLen_bufLen (s : State) (n : Nat) : (s.addLen n).bufLen = s.bufLen := rfl
@[simp] theorem State.addLen_len (s : State) (n : Nat) : (s.addLen n).len = s.len + BitVec.ofNat 128 (8 * n) := rfl
@[simp] theorem State.addLen_final (s : State) (n : Nat) : (s.addLen n).final = s.final := rfl
@[simp] theorem State.addLen_err (s : State) (n : Nat) : (s.addLen n).err = s.err := rfl
@[simp] theorem State.addLen_busy (s : State) (n : Nat) : (s.addLen n).busy = s.busy := rfl
@[simp] theorem State.addLen_pend (s : State) (n : Nat) : (s.addLen n).pend = s.pend := rfl
@[simp] theorem State.addLen_dataIn (s : State) (n : Nat) : (s.addLen n).dataIn = s.dataIn := rfl
@[simp] theorem State.addLen_digest (s : State) (n : Nat) : (s.addLen n).digest = s.digest := rfl
@[simp] theorem State.addLen_dp (s : State) (n : Nat) : (s.addLen n).dp = s.dp := rfl
@[simp] theorem State.addLen_waiting (s : State) (n : Nat) : (s.addLen n).waiting = s.waiting := rfl
@[simp] theorem State.addLen_inputs (s : State) (n : Nat) : (s.addLen n).inputs = s.inputs := rfl
@[simp] theorem State.addLen_responses (s : State) (n : Nat) : (s.addLen n).responses = s.responses := rfl

@[simp] theorem State.withBuf_h (s : State) (blk : Block) : (s.withBuf blk).h = s.h := rfl
@[simp] theorem State.withBuf_buf (s : State) (blk : Block) : (s.withBuf blk).buf = blk := rfl
@[simp] theorem State.withBuf_bufLen (s : State) (blk : Block) : (s.withBuf blk).bufLen = s.bufLen := rfl
@[simp] theorem State.withBuf_len (s : State) (blk : Block) : (s.withBuf blk).len = s.len := rfl
@[simp] theorem State.withBuf_final (s : State) (blk : Block) : (s.withBuf blk).final = s.final := rfl
@[simp] theorem State.withBuf_err (s : State) (blk : Block) : (s.withBuf blk).err = s.err := rfl
@[simp] theorem State.withBuf_busy (s : State) (blk : Block) : (s.withBuf blk).busy = s.busy := rfl
@[simp] theorem State.withBuf_pend (s : State) (blk : Block) : (s.withBuf blk).pend = s.pend := rfl
@[simp] theorem State.withBuf_dataIn (s : State) (blk : Block) : (s.withBuf blk).dataIn = s.dataIn := rfl
@[simp] theorem State.withBuf_digest (s : State) (blk : Block) : (s.withBuf blk).digest = s.digest := rfl
@[simp] theorem State.withBuf_dp (s : State) (blk : Block) : (s.withBuf blk).dp = s.dp := rfl
@[simp] theorem State.withBuf_waiting (s : State) (blk : Block) : (s.withBuf blk).waiting = s.waiting := rfl
@[simp] theorem State.withBuf_inputs (s : State) (blk : Block) : (s.withBuf blk).inputs = s.inputs := rfl
@[simp] theorem State.withBuf_responses (s : State) (blk : Block) : (s.withBuf blk).responses = s.responses := rfl

@[simp] theorem State.padFirst_h (s : State) (k : Nat) : (s.padFirst k).h = compress s.h (fillZero k 128 s.buf) := by simp [State.padFirst]
@[simp] theorem State.padFirst_buf (s : State) (k : Nat) : (s.padFirst k).buf = fillZero k 128 s.buf := by simp [State.padFirst]
@[simp] theorem State.padFirst_bufLen (s : State) (k : Nat) : (s.padFirst k).bufLen = s.bufLen := by simp [State.padFirst]
@[simp] theorem State.padFirst_len (s : State) (k : Nat) : (s.padFirst k).len = s.len := by simp [State.padFirst]
@[simp] theorem State.padFirst_final (s : State) (k : Nat) : (s.padFirst k).final = s.final := by simp [State.padFirst]
@[simp] theorem State.padFirst_err (s : State) (k : Nat) : (s.padFirst k).err = s.err := by simp [State.padFirst]
@[simp] theorem State.padFirst_busy (s : State) (k : Nat) : (s.padFirst k).busy = s.busy := by simp [State.padFirst]
@[simp] theorem State.padFirst_pend (s : State) (k : Nat) : (s.padFirst k).pend = s.pend := by simp [State.padFirst]
@[simp] theorem State.padFirst_dataIn (s : State) (k : Nat) : (s.padFirst k).dataIn = s.dataIn := by simp [State.padFirst]
@[simp] theorem State.padFirst_digest (s : State) (k : Nat) : (s.padFirst k).digest = s.digest := by simp [State.padFirst]
@[simp] theorem State.padFirst_dp (s : State) (k : Nat) : (s.padFirst k).dp = Datapath.run s.h (fillZero k 128 s.buf) := by simp [State.padFirst]
@[simp] theorem State.padFirst_waiting (s : State) (k : Nat) : (s.padFirst k).waiting = s.waiting := by simp [State.padFirst]
@[simp] theorem State.padFirst_inputs (s : State) (k : Nat) : (s.padFirst k).inputs = s.inputs := by simp [State.padFirst]
@[simp] theorem State.padFirst_responses (s : State) (k : Nat) : (s.padFirst k).responses = s.responses := by simp [State.padFirst]

@[simp] theorem State.padLast_h (s : State) (k : Nat) : (s.padLast k).h = compress s.h (storeLength s.len (fillZero k 112 s.buf)) := by simp [State.padLast]
@[simp] theorem State.padLast_buf (s : State) (k : Nat) : (s.padLast k).buf = storeLength s.len (fillZero k 112 s.buf) := by simp [State.padLast]
@[simp] theorem State.padLast_bufLen (s : State) (k : Nat) : (s.padLast k).bufLen = 0 := by simp [State.padLast]
@[simp] theorem State.padLast_len (s : State) (k : Nat) : (s.padLast k).len = s.len := by simp [State.padLast]
@[simp] theorem State.padLast_final (s : State) (k : Nat) : (s.padLast k).final = s.final := by simp [State.padLast]
@[simp] theorem State.padLast_err (s : State) (k : Nat) : (s.padLast k).err = s.err := by simp [State.padLast]
@[simp] theorem State.padLast_busy (s : State) (k : Nat) : (s.padLast k).busy = s.busy := by simp [State.padLast]
@[simp] theorem State.padLast_pend (s : State) (k : Nat) : (s.padLast k).pend = s.pend := by simp [State.padLast]
@[simp] theorem State.padLast_dataIn (s : State) (k : Nat) : (s.padLast k).dataIn = s.dataIn := by simp [State.padLast]
@[simp] theorem State.padLast_digest (s : State) (k : Nat) : (s.padLast k).digest = s.digest := by simp [State.padLast]
@[simp] theorem State.padLast_dp (s : State) (k : Nat) : (s.padLast k).dp = Datapath.run s.h (storeLength s.len (fillZero k 112 s.buf)) := by simp [State.padLast]
@[simp] theorem State.padLast_waiting (s : State) (k : Nat) : (s.padLast k).waiting = s.waiting := by simp [State.padLast]
@[simp] theorem State.padLast_inputs (s : State) (k : Nat) : (s.padLast k).inputs = s.inputs := by simp [State.padLast]
@[simp] theorem State.padLast_responses (s : State) (k : Nat) : (s.padLast k).responses = s.responses := by simp [State.padLast]

@[simp] theorem State.latchDigest_h (s : State) : (s.latchDigest).h = s.h := rfl
@[simp] theorem State.latchDigest_buf (s : State) : (s.latchDigest).buf = s.buf := rfl
@[simp] theorem State.latchDigest_bufLen (s : State) : (s.latchDigest).bufLen = s.bufLen := rfl
@[simp] theorem State.latchDigest_len (s : State) : (s.latchDigest).len = s.len := rfl
@[simp] theorem State.latchDigest_final (s : State) : (s.latchDigest).final = true := rfl
@[simp] theorem State.latchDigest_err (s : State) : (s.latchDigest).err = s.err := rfl
@[simp] theorem State.latchDigest_busy (s : State) : (s.latchDigest).busy = s.busy := rfl
@[simp] theorem State.latchDigest_pend (s : State) : (s.latchDigest).pend = s.pend := rfl
@[simp] theorem State.latchDigest_dataIn (s : State) : (s.latchDigest).dataIn = s.dataIn := rfl
@[simp] theorem State.latchDigest_digest (s : State) : (s.latchDigest).digest = DigestRegs.latch s.h := rfl
@[simp] theorem State.latchDigest_dp (s : State) : (s.latchDigest).dp = s.dp := rfl
@[simp] theorem State.latchDigest_waiting (s : State) : (s.latchDigest).waiting = s.waiting := rfl
@[simp] theorem State.latchDigest_inputs (s : State) : (s.latchDigest).inputs = s.inputs := rfl
@[simp] theorem State.latchDigest_responses (s : State) : (s.latchDigest).responses = s.responses := rfl

@[simp] theorem State.construct_h (s : State) : (s.construct).h = HashRegs.iv := rfl
@[simp] theorem State.construct_buf (s : State) : (s.construct).buf = s.buf := rfl
@[simp] theorem State.construct_bufLen (s : State) : (s.construct).bufLen = 0 := rfl
@[simp] theorem State.construct_len (s : State) : (s.construct).len = 0 := rfl
@[simp] theorem State.construct_final (s : State) : (s.construct).final = false := rfl
@[simp] theorem State.construct_err (s : State) : (s.construct).err = 0 := rfl
@[simp] theorem State.construct_busy (s : State) : (s.construct).busy = s.busy := rfl
@[simp] theorem State.construct_pend (s : State) : (s.construct).pend = s.pend := rfl
@[simp] theorem State.construct_dataIn (s : State) : (s.construct).dataIn = s.dataIn := rfl
@[simp] theorem State.construct_digest (s : State) : (s.construct).digest = DigestRegs.zero := rfl
@[simp] theorem State.construct_dp (s : State) : (s.construct).dp = s.dp := rfl
@[simp] theorem State.construct_waiting (s : State) : (s.construct).waiting = s.waiting := rfl
@[simp] theorem State.construct_inputs (s : State) : (s.construct).inputs = s.inputs := rfl
@[simp] theorem State.construct_responses (s : State) : (s.construct).responses = s.responses := rfl

@[simp] theorem State.acceptCommand_h (s : State) (v : Word) : (s.acceptCommand v).h = s.h := rfl
@[simp] theorem State.acceptCommand_buf (s : State) (v : Word) : (s.acceptCommand v).buf = s.buf := rfl
@[simp] theorem State.acceptCommand_bufLen (s : State) (v : Word) : (s.acceptCommand v).bufLen = s.bufLen := rfl
@[simp] theorem State.acceptCommand_len (s : State) (v : Word) : (s.acceptCommand v).len = s.len := rfl
@[simp] theorem State.acceptCommand_final (s : State) (v : Word) : (s.acceptCommand v).final = s.final := rfl
@[simp] theorem State.acceptCommand_err (s : State) (v : Word) : (s.acceptCommand v).err = s.err := rfl
@[simp] theorem State.acceptCommand_busy (s : State) (v : Word) : (s.acceptCommand v).busy = true := rfl
@[simp] theorem State.acceptCommand_pend (s : State) (v : Word) : (s.acceptCommand v).pend = some v := rfl
@[simp] theorem State.acceptCommand_dataIn (s : State) (v : Word) : (s.acceptCommand v).dataIn = s.dataIn := rfl
@[simp] theorem State.acceptCommand_digest (s : State) (v : Word) : (s.acceptCommand v).digest = s.digest := rfl
@[simp] theorem State.acceptCommand_dp (s : State) (v : Word) : (s.acceptCommand v).dp = s.dp := rfl
@[simp] theorem State.acceptCommand_waiting (s : State) (v : Word) : (s.acceptCommand v).waiting = s.waiting := rfl
@[simp] theorem State.acceptCommand_inputs (s : State) (v : Word) : (s.acceptCommand v).inputs = s.inputs := rfl
@[simp] theorem State.acceptCommand_responses (s : State) (v : Word) : (s.acceptCommand v).responses = s.responses := rfl

@[simp] theorem State.withDataIn_h (s : State) (v : Word) : (s.withDataIn v).h = s.h := rfl
@[simp] theorem State.withDataIn_buf (s : State) (v : Word) : (s.withDataIn v).buf = s.buf := rfl
@[simp] theorem State.withDataIn_bufLen (s : State) (v : Word) : (s.withDataIn v).bufLen = s.bufLen := rfl
@[simp] theorem State.withDataIn_len (s : State) (v : Word) : (s.withDataIn v).len = s.len := rfl
@[simp] theorem State.withDataIn_final (s : State) (v : Word) : (s.withDataIn v).final = s.final := rfl
@[simp] theorem State.withDataIn_err (s : State) (v : Word) : (s.withDataIn v).err = s.err := rfl
@[simp] theorem State.withDataIn_busy (s : State) (v : Word) : (s.withDataIn v).busy = s.busy := rfl
@[simp] theorem State.withDataIn_pend (s : State) (v : Word) : (s.withDataIn v).pend = s.pend := rfl
@[simp] theorem State.withDataIn_dataIn (s : State) (v : Word) : (s.withDataIn v).dataIn = v := rfl
@[simp] theorem State.withDataIn_digest (s : State) (v : Word) : (s.withDataIn v).digest = s.digest := rfl
@[simp] theorem State.withDataIn_dp (s : State) (v : Word) : (s.withDataIn v).dp = s.dp := rfl
@[simp] theorem State.withDataIn_waiting (s : State) (v : Word) : (s.withDataIn v).waiting = s.waiting := rfl
@[simp] theorem State.withDataIn_inputs (s : State) (v : Word) : (s.withDataIn v).inputs = s.inputs := rfl
@[simp] theorem State.withDataIn_responses (s : State) (v : Word) : (s.withDataIn v).responses = s.responses := rfl

@[simp] theorem State.issue_h (s : State) (a : Access) : (s.issue a).h = s.h := rfl
@[simp] theorem State.issue_buf (s : State) (a : Access) : (s.issue a).buf = s.buf := rfl
@[simp] theorem State.issue_bufLen (s : State) (a : Access) : (s.issue a).bufLen = s.bufLen := rfl
@[simp] theorem State.issue_len (s : State) (a : Access) : (s.issue a).len = s.len := rfl
@[simp] theorem State.issue_final (s : State) (a : Access) : (s.issue a).final = s.final := rfl
@[simp] theorem State.issue_err (s : State) (a : Access) : (s.issue a).err = s.err := rfl
@[simp] theorem State.issue_busy (s : State) (a : Access) : (s.issue a).busy = s.busy := rfl
@[simp] theorem State.issue_pend (s : State) (a : Access) : (s.issue a).pend = s.pend := rfl
@[simp] theorem State.issue_dataIn (s : State) (a : Access) : (s.issue a).dataIn = s.dataIn := rfl
@[simp] theorem State.issue_digest (s : State) (a : Access) : (s.issue a).digest = s.digest := rfl
@[simp] theorem State.issue_dp (s : State) (a : Access) : (s.issue a).dp = s.dp := rfl
@[simp] theorem State.issue_waiting (s : State) (a : Access) : (s.issue a).waiting = s.waiting ++ [a] := rfl
@[simp] theorem State.issue_inputs (s : State) (a : Access) : (s.issue a).inputs = s.inputs := rfl
@[simp] theorem State.issue_responses (s : State) (a : Access) : (s.issue a).responses = s.responses := rfl

@[simp] theorem State.answer_h (s : State) (host : Nat) (r : Reply) : (s.answer host r).h = s.h := rfl
@[simp] theorem State.answer_buf (s : State) (host : Nat) (r : Reply) : (s.answer host r).buf = s.buf := rfl
@[simp] theorem State.answer_bufLen (s : State) (host : Nat) (r : Reply) : (s.answer host r).bufLen = s.bufLen := rfl
@[simp] theorem State.answer_len (s : State) (host : Nat) (r : Reply) : (s.answer host r).len = s.len := rfl
@[simp] theorem State.answer_final (s : State) (host : Nat) (r : Reply) : (s.answer host r).final = s.final := rfl
@[simp] theorem State.answer_err (s : State) (host : Nat) (r : Reply) : (s.answer host r).err = s.err := rfl
@[simp] theorem State.answer_busy (s : State) (host : Nat) (r : Reply) : (s.answer host r).busy = s.busy := rfl
@[simp] theorem State.answer_pend (s : State) (host : Nat) (r : Reply) : (s.answer host r).pend = s.pend := rfl
@[simp] theorem State.answer_dataIn (s : State) (host : Nat) (r : Reply) : (s.answer host r).dataIn = s.dataIn := rfl
@[simp] theorem State.answer_digest (s : State) (host : Nat) (r : Reply) : (s.answer host r).digest = s.digest := rfl
@[simp] theorem State.answer_dp (s : State) (host : Nat) (r : Reply) : (s.answer host r).dp = s.dp := rfl
@[simp] theorem State.answer_waiting (s : State) (host : Nat) (r : Reply) : (s.answer host r).waiting = s.waiting.eraseP (fun a => a.host == host) := rfl
@[simp] theorem State.answer_inputs (s : State) (host : Nat) (r : Reply) : (s.answer host r).inputs = s.inputs := rfl
@[simp] theorem State.answer_responses (s : State) (host : Nat) (r : Reply) : (s.answer host r).responses = s.responses ++ [⟨host, r⟩] := rfl

@[simp] theorem State.withInputs_h (s : State) (is : List Input) : (s.withInputs is).h = s.h := rfl
@[simp] theorem State.withInputs_buf (s : State) (is : List Input) : (s.withInputs is).buf = s.buf := rfl
@[simp] theorem State.withInputs_bufLen (s : State) (is : List Input) : (s.withInputs is).bufLen = s.bufLen := rfl
@[simp] theorem State.withInputs_len (s : State) (is : List Input) : (s.withInputs is).len = s.len := rfl
@[simp] theorem State.withInputs_final (s : State) (is : List Input) : (s.withInputs is).final = s.final := rfl
@[simp] theorem State.withInputs_err (s : State) (is : List Input) : (s.withInputs is).err = s.err := rfl
@[simp] theorem State.withInputs_busy (s : State) (is : List Input) : (s.withInputs is).busy = s.busy := rfl
@[simp] theorem State.withInputs_pend (s : State) (is : List Input) : (s.withInputs is).pend = s.pend := rfl
@[simp] theorem State.withInputs_dataIn (s : State) (is : List Input) : (s.withInputs is).dataIn = s.dataIn := rfl
@[simp] theorem State.withInputs_digest (s : State) (is : List Input) : (s.withInputs is).digest = s.digest := rfl
@[simp] theorem State.withInputs_dp (s : State) (is : List Input) : (s.withInputs is).dp = s.dp := rfl
@[simp] theorem State.withInputs_waiting (s : State) (is : List Input) : (s.withInputs is).waiting = s.waiting := rfl
@[simp] theorem State.withInputs_inputs (s : State) (is : List Input) : (s.withInputs is).inputs = is := rfl
@[simp] theorem State.withInputs_responses (s : State) (is : List Input) : (s.withInputs is).responses = s.responses := rfl

@[simp] theorem State.withPending_h (s : State) (v : Word) : (s.withPending v).h = s.h := rfl
@[simp] theorem State.withPending_buf (s : State) (v : Word) : (s.withPending v).buf = s.buf := rfl
@[simp] theorem State.withPending_bufLen (s : State) (v : Word) : (s.withPending v).bufLen = s.bufLen := rfl
@[simp] theorem State.withPending_len (s : State) (v : Word) : (s.withPending v).len = s.len := rfl
@[simp] theorem State.withPending_final (s : State) (v : Word) : (s.withPending v).final = s.final := rfl
@[simp] theorem State.withPending_err (s : State) (v : Word) : (s.withPending v).err = s.err := rfl
@[simp] theorem State.withPending_busy (s : State) (v : Word) : (s.withPending v).busy = true := rfl
@[simp] theorem State.withPending_pend (s : State) (v : Word) : (s.withPending v).pend = some v := rfl
@[simp] theorem State.withPending_dataIn (s : State) (v : Word) : (s.withPending v).dataIn = s.dataIn := rfl
@[simp] theorem State.withPending_digest (s : State) (v : Word) : (s.withPending v).digest = s.digest := rfl
@[simp] theorem State.withPending_dp (s : State) (v : Word) : (s.withPending v).dp = s.dp := rfl
@[simp] theorem State.withPending_waiting (s : State) (v : Word) : (s.withPending v).waiting = s.waiting := rfl
@[simp] theorem State.withPending_inputs (s : State) (v : Word) : (s.withPending v).inputs = Input.engine :: s.inputs := rfl
@[simp] theorem State.withPending_responses (s : State) (v : Word) : (s.withPending v).responses = s.responses := rfl

end Sys2Proof.Machine
end

