-- ==== Sys2Proof/Laws/Ops.lean ====
section
/-! SUPPORT. What the shared operations of the commands can do: AbsorbBytes byte by byte, Pad, error entry. -/

namespace Sys2Proof.Machine

theorem recordError_of_ne_zero {err : BitVec 4} (h : err ≠ 0) (e : EngineError) : recordError err e = err := if_neg h

theorem recordError_zero (e : EngineError) : recordError 0 e = e.code := rfl

/-! ### One byte absorbed -/

theorem State.absorbByte_full {s : State} (m : Byte) (h : s.bufLen.toNat + 1 = 128) :
    s.absorbByte m = (s.putByte m).compressBuf.withBufLen 0 := if_pos h

theorem State.absorbByte_room {s : State} (m : Byte) (h : s.bufLen.toNat + 1 ≠ 128) :
    s.absorbByte m = (s.putByte m).withBufLen (s.bufLen + 1) := if_neg h

@[simp] theorem State.absorbByte_buf (s : State) (m : Byte) :
    (s.absorbByte m).buf = s.buf.set s.bufLen.toNat m s.bufLen.isLt := by
  unfold State.absorbByte; split <;> simp

@[simp] theorem State.absorbByte_len (s : State) (m : Byte) : (s.absorbByte m).len = s.len := by
  unfold State.absorbByte; split <;> simp

@[simp] theorem State.absorbByte_final (s : State) (m : Byte) : (s.absorbByte m).final = s.final := by
  unfold State.absorbByte; split <;> simp

@[simp] theorem State.absorbByte_err (s : State) (m : Byte) : (s.absorbByte m).err = s.err := by
  unfold State.absorbByte; split <;> simp

@[simp] theorem State.absorbByte_busy (s : State) (m : Byte) : (s.absorbByte m).busy = s.busy := by
  unfold State.absorbByte; split <;> simp

@[simp] theorem State.absorbByte_pend (s : State) (m : Byte) : (s.absorbByte m).pend = s.pend := by
  unfold State.absorbByte; split <;> simp

@[simp] theorem State.absorbByte_dataIn (s : State) (m : Byte) : (s.absorbByte m).dataIn = s.dataIn := by
  unfold State.absorbByte; split <;> simp

@[simp] theorem State.absorbByte_digest (s : State) (m : Byte) : (s.absorbByte m).digest = s.digest := by
  unfold State.absorbByte; split <;> simp

@[simp] theorem State.absorbByte_waiting (s : State) (m : Byte) : (s.absorbByte m).waiting = s.waiting := by
  unfold State.absorbByte; split <;> simp

@[simp] theorem State.absorbByte_inputs (s : State) (m : Byte) : (s.absorbByte m).inputs = s.inputs := by
  unfold State.absorbByte; split <;> simp

@[simp] theorem State.absorbByte_responses (s : State) (m : Byte) : (s.absorbByte m).responses = s.responses := by
  unfold State.absorbByte; split <;> simp

theorem State.absorbByte_bufLen (s : State) (m : Byte) :
    (s.absorbByte m).bufLen.toNat = (s.bufLen.toNat + 1) % 128 := by
  have hlt := s.bufLen.isLt
  by_cases h : s.bufLen.toNat + 1 = 128
  · simp [State.absorbByte_full m h, h]
  · simp [State.absorbByte_room m h, BitVec.toNat_add]

theorem State.absorbByte_h (s : State) (m : Byte) :
    (s.absorbByte m).h =
      if s.bufLen.toNat = 127 then compress s.h (s.buf.set s.bufLen.toNat m s.bufLen.isLt) else s.h := by
  by_cases h : s.bufLen.toNat = 127
  · simp [State.absorbByte_full m (by omega : s.bufLen.toNat + 1 = 128), h]
  · simp [State.absorbByte_room m (by omega : s.bufLen.toNat + 1 ≠ 128), h]

theorem State.absorbByte_dp (s : State) (m : Byte) :
    (s.absorbByte m).dp =
      if s.bufLen.toNat = 127 then Datapath.run s.h (s.buf.set s.bufLen.toNat m s.bufLen.isLt) else s.dp := by
  by_cases h : s.bufLen.toNat = 127
  · simp [State.absorbByte_full m (by omega : s.bufLen.toNat + 1 = 128), h]
  · simp [State.absorbByte_room m (by omega : s.bufLen.toNat + 1 ≠ 128), h]

/-! ### The loop -/

@[simp] theorem State.absorbLoop_nil (s : State) : s.absorbLoop [] = s := rfl

@[simp] theorem State.absorbLoop_cons (s : State) (m : Byte) (ms : List Byte) :
    s.absorbLoop (m :: ms) = (s.absorbByte m).absorbLoop ms := rfl

theorem State.absorbLoop_append (s : State) (xs ys : List Byte) :
    s.absorbLoop (xs ++ ys) = (s.absorbLoop xs).absorbLoop ys := List.foldl_append

/-- What holds of a state and is kept by one byte is kept by the loop. -/
theorem State.absorbLoop_induct {P : State → Prop} (step : ∀ s m, P s → P (s.absorbByte m)) :
    ∀ (ms : List Byte) (s : State), P s → P (s.absorbLoop ms)
  | [], _, h => h
  | m :: ms, s, h => State.absorbLoop_induct step ms (s.absorbByte m) (step s m h)

@[simp] theorem State.absorbLoop_len (s : State) (ms : List Byte) : (s.absorbLoop ms).len = s.len :=
  State.absorbLoop_induct (P := fun t => t.len = s.len) (fun _ _ h => by simpa using h) ms s rfl

@[simp] theorem State.absorbLoop_final (s : State) (ms : List Byte) : (s.absorbLoop ms).final = s.final :=
  State.absorbLoop_induct (P := fun t => t.final = s.final) (fun _ _ h => by simpa using h) ms s rfl

@[simp] theorem State.absorbLoop_err (s : State) (ms : List Byte) : (s.absorbLoop ms).err = s.err :=
  State.absorbLoop_induct (P := fun t => t.err = s.err) (fun _ _ h => by simpa using h) ms s rfl

@[simp] theorem State.absorbLoop_busy (s : State) (ms : List Byte) : (s.absorbLoop ms).busy = s.busy :=
  State.absorbLoop_induct (P := fun t => t.busy = s.busy) (fun _ _ h => by simpa using h) ms s rfl

@[simp] theorem State.absorbLoop_pend (s : State) (ms : List Byte) : (s.absorbLoop ms).pend = s.pend :=
  State.absorbLoop_induct (P := fun t => t.pend = s.pend) (fun _ _ h => by simpa using h) ms s rfl

@[simp] theorem State.absorbLoop_dataIn (s : State) (ms : List Byte) : (s.absorbLoop ms).dataIn = s.dataIn :=
  State.absorbLoop_induct (P := fun t => t.dataIn = s.dataIn) (fun _ _ h => by simpa using h) ms s rfl

@[simp] theorem State.absorbLoop_digest (s : State) (ms : List Byte) : (s.absorbLoop ms).digest = s.digest :=
  State.absorbLoop_induct (P := fun t => t.digest = s.digest) (fun _ _ h => by simpa using h) ms s rfl

@[simp] theorem State.absorbLoop_waiting (s : State) (ms : List Byte) : (s.absorbLoop ms).waiting = s.waiting :=
  State.absorbLoop_induct (P := fun t => t.waiting = s.waiting) (fun _ _ h => by simpa using h) ms s rfl

@[simp] theorem State.absorbLoop_inputs (s : State) (ms : List Byte) : (s.absorbLoop ms).inputs = s.inputs :=
  State.absorbLoop_induct (P := fun t => t.inputs = s.inputs) (fun _ _ h => by simpa using h) ms s rfl

@[simp] theorem State.absorbLoop_responses (s : State) (ms : List Byte) : (s.absorbLoop ms).responses = s.responses :=
  State.absorbLoop_induct (P := fun t => t.responses = s.responses) (fun _ _ h => by simpa using h) ms s rfl

theorem State.absorbLoop_bufLen (ms : List Byte) :
    ∀ s : State, (s.absorbLoop ms).bufLen.toNat = (s.bufLen.toNat + ms.length) % 128 := by
  induction ms with
  | nil => intro s; have := s.bufLen.isLt; simp; omega
  | cons m ms ih =>
    intro s
    rw [State.absorbLoop_cons, ih, State.absorbByte_bufLen, List.length_cons]
    omega

/-! ### AbsorbBytes -/

/-- AbsorbBytes does one of three things (41_commands.md R131). -/
theorem State.absorbBytes_cases (s : State) (ms : List Byte) :
    (s.final = true ∧ s.absorbBytes ms = s.raiseError .invalidState) ∨
    (s.final = false ∧ 2 ^ 128 ≤ s.len.toNat + 8 * ms.length ∧ s.absorbBytes ms = s.raiseError .lengthOverflow) ∨
    (s.final = false ∧ s.len.toNat + 8 * ms.length < 2 ^ 128 ∧
      s.absorbBytes ms = (s.absorbLoop ms).addLen ms.length) := by
  unfold State.absorbBytes
  cases hf : s.final
  · rw [if_neg (by simp)]
    by_cases hl : 2 ^ 128 ≤ s.len.toNat + 8 * ms.length
    · rw [if_pos hl]; exact .inr (.inl ⟨rfl, hl, rfl⟩)
    · rw [if_neg hl]; exact .inr (.inr ⟨rfl, Nat.lt_of_not_le hl, rfl⟩)
  · exact .inl ⟨rfl, rfl⟩

theorem State.absorbBytes_finalized {s : State} (ms : List Byte) (h : s.final = true) :
    s.absorbBytes ms = s.raiseError .invalidState := by
  simp [State.absorbBytes, h]

theorem State.absorbBytes_overflow {s : State} {ms : List Byte} (h : s.final = false)
    (hl : 2 ^ 128 ≤ s.len.toNat + 8 * ms.length) : s.absorbBytes ms = s.raiseError .lengthOverflow := by
  unfold State.absorbBytes; rw [if_neg (by simp [h]), if_pos hl]

theorem State.absorbBytes_accepted {s : State} {ms : List Byte} (h : s.final = false)
    (hl : s.len.toNat + 8 * ms.length < 2 ^ 128) : s.absorbBytes ms = (s.absorbLoop ms).addLen ms.length := by
  unfold State.absorbBytes; rw [if_neg (by simp [h]), if_neg (by omega)]

theorem State.addLen_toNat {s : State} {n : Nat} (h : s.len.toNat + 8 * n < 2 ^ 128) :
    (s.addLen n).len.toNat = s.len.toNat + 8 * n := by
  rw [State.addLen_len, BitVec.toNat_add, BitVec.toNat_ofNat]
  omega

@[simp] theorem lanes_length (data : Word) (n : Nat) : (lanes data n).length = n := by simp [lanes]

/-! ### Pad -/

/-- Pad in its two cases (41_commands.md R132). -/
theorem State.pad_one {s : State} (h : s.bufLen.toNat ≤ 111) :
    s.pad = (s.putByte 0x80).padLast (s.bufLen.toNat + 1) := by
  unfold State.pad; exact if_neg (by omega)

theorem State.pad_two {s : State} (h : 112 ≤ s.bufLen.toNat) :
    s.pad = ((s.putByte 0x80).padFirst (s.bufLen.toNat + 1)).padLast 0 := by
  unfold State.pad; exact if_pos (by omega)

@[simp] theorem State.pad_bufLen (s : State) : s.pad.bufLen = 0 := by
  unfold State.pad; dsimp only; split <;> simp

@[simp] theorem State.pad_len (s : State) : s.pad.len = s.len := by
  unfold State.pad; dsimp only; split <;> simp

@[simp] theorem State.pad_final (s : State) : s.pad.final = s.final := by
  unfold State.pad; dsimp only; split <;> simp

@[simp] theorem State.pad_err (s : State) : s.pad.err = s.err := by
  unfold State.pad; dsimp only; split <;> simp

@[simp] theorem State.pad_busy (s : State) : s.pad.busy = s.busy := by
  unfold State.pad; dsimp only; split <;> simp

@[simp] theorem State.pad_pend (s : State) : s.pad.pend = s.pend := by
  unfold State.pad; dsimp only; split <;> simp

@[simp] theorem State.pad_dataIn (s : State) : s.pad.dataIn = s.dataIn := by
  unfold State.pad; dsimp only; split <;> simp

@[simp] theorem State.pad_digest (s : State) : s.pad.digest = s.digest := by
  unfold State.pad; dsimp only; split <;> simp

@[simp] theorem State.pad_waiting (s : State) : s.pad.waiting = s.waiting := by
  unfold State.pad; dsimp only; split <;> simp

@[simp] theorem State.pad_inputs (s : State) : s.pad.inputs = s.inputs := by
  unfold State.pad; dsimp only; split <;> simp

@[simp] theorem State.pad_responses (s : State) : s.pad.responses = s.responses := by
  unfold State.pad; dsimp only; split <;> simp

/-! ### The blocks Pad builds, byte by byte -/

theorem fillZero_get (lo hi : Nat) (blk : Block) (i : Nat) (h : i < 128) :
    (fillZero lo hi blk)[i] = if lo ≤ i ∧ i < hi then 0 else blk[i] := by
  simp [fillZero]

theorem storeLength_get (len : BitVec 128) (blk : Block) (i : Nat) (h : i < 128) :
    (storeLength len blk)[i] = if 112 ≤ i then byteBE len 16 (i - 112) else blk[i] := by
  simp [storeLength]

end Sys2Proof.Machine
end

