-- ==== Sys2Proof/Laws/Buffer.lean ====
section
/-! SUPPORT. The message buffer under AbsorbBytes (41_commands.md R131): the buffered bytes, the block of a full buffer, and
the frame of BUF. -/

namespace Sys2Proof.Machine

theorem bufferedBytes_length (s : State) : (bufferedBytes s).length = s.bufLen.toNat := by
  have := s.bufLen.isLt
  simp [bufferedBytes]
  omega

theorem take_set_self (l : List Byte) (k : Nat) (m : Byte) (h : k < l.length) :
    (l.set k m).take (k + 1) = l.take k ++ [m] := by
  rw [List.take_succ_eq_append_getElem (by simpa using h), List.take_set_of_le (Nat.le_refl k)]
  simp

/-- A byte with room left is appended. -/
theorem bufferedBytes_absorbByte_room {s : State} (m : Byte) (h : s.bufLen.toNat < 127) :
    bufferedBytes (s.absorbByte m) = bufferedBytes s ++ [m] := by
  unfold bufferedBytes
  rw [State.absorbByte_bufLen, State.absorbByte_buf, Nat.mod_eq_of_lt (by omega), Vector.toList_set,
    take_set_self _ _ _ (by simp; omega)]

/-- The 128th byte empties the buffer. -/
theorem bufferedBytes_absorbByte_full {s : State} (m : Byte) (h : s.bufLen.toNat = 127) :
    bufferedBytes (s.absorbByte m) = [] := by
  unfold bufferedBytes
  rw [State.absorbByte_bufLen]
  simp [h]

/-- With its 128th byte the buffer is the first block of the buffered bytes and what follows. -/
theorem block_of_full_buffer {s : State} (m : Byte) (h : s.bufLen.toNat = 127) (rest : List Byte) :
    s.buf.set s.bufLen.toNat m s.bufLen.isLt = blockOf (bufferedBytes s ++ m :: rest) 0 := by
  apply Vector.ext
  intro i hi
  simp only [blockOf, Vector.getElem_ofFn, Vector.getElem_set, bufferedBytes, h]
  by_cases h1 : 127 = i
  · subst h1
    simp
  · rw [if_neg h1, List.getD_append _ _ _ _ (by simp; omega), List.getD_eq_getElem _ _ (by simp; omega)]
    simp

/-- Bytes that fit are appended, and nothing is compressed. -/
theorem absorbLoop_room (ms : List Byte) : ∀ s : State, s.bufLen.toNat + ms.length < 128 →
    (s.absorbLoop ms).h = s.h ∧ (s.absorbLoop ms).dp = s.dp ∧
      bufferedBytes (s.absorbLoop ms) = bufferedBytes s ++ ms := by
  induction ms with
  | nil => intro s h; simp
  | cons m ms ih =>
    intro s h
    rw [List.length_cons] at h
    have hb := State.absorbByte_bufLen s m
    obtain ⟨h1, h2, h3⟩ := ih (s.absorbByte m) (by omega)
    rw [State.absorbLoop_cons, h1, h2, h3, State.absorbByte_h, State.absorbByte_dp, if_neg (by omega),
      if_neg (by omega), bufferedBytes_absorbByte_room m (by omega)]
    simp

/-- Bytes that reach 128 compress the buffer once; the rest is buffered. -/
theorem absorbLoop_cross (s : State) (ms : List Byte) (h : 128 ≤ s.bufLen.toNat + ms.length) (h8 : ms.length ≤ 8) :
    (s.absorbLoop ms).h = compress s.h (blockOf (bufferedBytes s ++ ms) 0) ∧
      bufferedBytes (s.absorbLoop ms) = (bufferedBytes s ++ ms).drop 128 := by
  have hk := s.bufLen.isLt
  obtain ⟨xs, ys, rfl, hx⟩ : ∃ xs ys, ms = xs ++ ys ∧ xs.length = 127 - s.bufLen.toNat :=
    ⟨ms.take (127 - s.bufLen.toNat), ms.drop (127 - s.bufLen.toNat), by simp, by simp; omega⟩
  cases ys with
  | nil => simp at h; omega
  | cons y zs =>
    simp only [List.length_append, List.length_cons] at h h8
    obtain ⟨a1, _, a3⟩ := absorbLoop_room xs s (by omega)
    have hl := State.absorbLoop_bufLen xs s
    rw [Nat.mod_eq_of_lt (by omega)] at hl
    have hb := State.absorbByte_bufLen (s.absorbLoop xs) y
    obtain ⟨b1, _, b3⟩ := absorbLoop_room zs ((s.absorbLoop xs).absorbByte y) (by omega)
    rw [State.absorbLoop_append, State.absorbLoop_cons, b1, b3, State.absorbByte_h, if_pos (by omega), a1,
      block_of_full_buffer y (by omega) zs, a3, bufferedBytes_absorbByte_full y (by omega)]
    constructor
    · simp
    · have hlen := bufferedBytes_length s
      rw [← List.append_assoc, List.append_cons, List.drop_append, List.drop_of_length_le (by simp; omega),
        show 128 - (bufferedBytes s ++ xs ++ [y]).length = 0 by simp; omega]
      rfl

/-- The loop writes only at `(BUF_LEN + i) mod 128`. -/
theorem absorbLoop_buf_frame (ms : List Byte) : ∀ (s : State) (j : Fin 128),
    (∀ i, i < ms.length → (s.bufLen.toNat + i) % 128 ≠ j.val) → (s.absorbLoop ms).buf[j] = s.buf[j] := by
  induction ms with
  | nil => intros; rfl
  | cons m ms ih =>
    intro s j h
    rw [State.absorbLoop_cons, ih]
    · have := h 0 (by simp)
      have hl := s.bufLen.isLt
      simp only [State.absorbByte_buf, Fin.getElem_fin, Vector.getElem_set]
      rw [if_neg (by omega)]
    · intro i hi
      rw [State.absorbByte_bufLen]
      have := h (i + 1) (by simp; omega)
      omega

/-- What the loop writes there. -/
theorem absorbLoop_buf_at (ms : List Byte) : ∀ s : State, ms.length ≤ 8 → ∀ i (h : i < ms.length),
    (s.absorbLoop ms).buf[(s.bufLen.toNat + i) % 128]'(Nat.mod_lt _ (by decide)) = ms[i] := by
  induction ms with
  | nil => intro s _ i h; simp at h
  | cons m ms ih =>
    intro s hl i h
    have hk := s.bufLen.isLt
    rw [List.length_cons] at hl h
    rw [State.absorbLoop_cons]
    cases i with
    | zero =>
      have hf := absorbLoop_buf_frame ms (s.absorbByte m) ⟨(s.bufLen.toNat + 0) % 128, Nat.mod_lt _ (by decide)⟩
        (by intro i hi; rw [State.absorbByte_bufLen]; dsimp; omega)
      simp only [Fin.getElem_fin] at hf
      rw [hf]
      simp [Nat.mod_eq_of_lt hk]
    | succ i =>
      have hi := ih (s.absorbByte m) (by omega) i (by omega)
      simp only [State.absorbByte_bufLen] at hi
      simp only [List.getElem_cons_succ]
      rw [← hi]
      congr 1
      omega

end Sys2Proof.Machine
end

