-- ==== Sys2Proof/Laws/Decode.lean ====
section
/-! SUPPORT. The fields of a word as numbers, and the decoder said through them (30_encoding.md R80, R83, R86). -/

namespace Sys2Proof

theorem fieldHigh_toNat (v : Word) : (fieldHigh v).toNat = v.toNat / 2 ^ 32 := by
  have := v.isLt
  rw [fieldHigh, BitVec.extractLsb'_toNat, Nat.shiftRight_eq_div_pow]
  omega

theorem fieldOpcode_toNat (v : Word) : (fieldOpcode v).toNat = v.toNat / 2 ^ 24 % 2 ^ 8 := by
  rw [fieldOpcode, BitVec.extractLsb'_toNat, Nat.shiftRight_eq_div_pow]

theorem fieldMiddle_toNat (v : Word) : (fieldMiddle v).toNat = v.toNat / 2 ^ 8 % 2 ^ 16 := by
  rw [fieldMiddle, BitVec.extractLsb'_toNat, Nat.shiftRight_eq_div_pow]

theorem fieldArgument_toNat (v : Word) : (fieldArgument v).toNat = v.toNat % 2 ^ 8 := by
  rw [fieldArgument, BitVec.extractLsb'_toNat, Nat.shiftRight_eq_div_pow]
  omega

theorem fieldByteCount_toNat (v : Word) : (fieldByteCount v).toNat = v.toNat % 2 ^ 4 := by
  rw [fieldByteCount, BitVec.extractLsb'_toNat, Nat.shiftRight_eq_div_pow]
  omega

/-- A field is a given value exactly when its number is. -/
theorem field_eq_iff {w : Nat} (x y : BitVec w) : x = y ↔ x.toNat = y.toNat := BitVec.toNat_inj.symm

/-- Every case of the decoder, with what it says of the word as a number. -/
theorem decode_cases (v : Word) :
    (v.toNat / 2 ^ 32 ≠ 0 ∧ decode v = .illegal .reservedHigh) ∨
    (v.toNat / 2 ^ 32 = 0 ∧ v.toNat / 2 ^ 8 % 2 ^ 16 ≠ 0 ∧ decode v = .illegal .reservedMiddle) ∨
    (v.toNat / 2 ^ 32 = 0 ∧ v.toNat / 2 ^ 8 % 2 ^ 16 = 0 ∧
      ((v.toNat / 2 ^ 24 % 2 ^ 8 = 0 ∧ v.toNat % 2 ^ 8 = 0 ∧ decode v = .command .nop) ∨
       (v.toNat / 2 ^ 24 % 2 ^ 8 = 1 ∧ v.toNat % 2 ^ 8 = 0 ∧ decode v = .command .init) ∨
       (v.toNat / 2 ^ 24 % 2 ^ 8 = 2 ∧ v.toNat % 2 ^ 8 ≤ 8 ∧ decode v = .command (.absorb (fieldByteCount v))) ∨
       (v.toNat / 2 ^ 24 % 2 ^ 8 = 3 ∧ decode v = .command (.absorbB (fieldArgument v))) ∨
       (v.toNat / 2 ^ 24 % 2 ^ 8 = 4 ∧ v.toNat % 2 ^ 8 = 0 ∧ decode v = .command .final) ∨
       ((v.toNat / 2 ^ 24 % 2 ^ 8 = 0 ∨ v.toNat / 2 ^ 24 % 2 ^ 8 = 1 ∨ v.toNat / 2 ^ 24 % 2 ^ 8 = 4) ∧
         v.toNat % 2 ^ 8 ≠ 0 ∧ decode v = .illegal .nonzeroArgument) ∨
       (v.toNat / 2 ^ 24 % 2 ^ 8 = 2 ∧ 8 < v.toNat % 2 ^ 8 ∧ decode v = .illegal .byteCount) ∨
       (4 < v.toNat / 2 ^ 24 % 2 ^ 8 ∧ decode v = .illegal .reservedOpcode))) := by
  have hH := fieldHigh_toNat v
  have hM := fieldMiddle_toNat v
  have hO := fieldOpcode_toNat v
  have hA := fieldArgument_toNat v
  unfold decode decodeOpcode decodePlain
  simp only [ne_eq, field_eq_iff, hH, hM, hO, hA, BitVec.toNat_ofNat, BitVec.ofNat_eq_ofNat]
  split
  · exact .inl ⟨by omega, rfl⟩
  · split
    · exact .inr (.inl ⟨by omega, by omega, rfl⟩)
    · refine .inr (.inr ⟨by omega, by omega, ?_⟩)
      split
      · split
        · exact .inl ⟨by omega, by omega, rfl⟩
        · exact .inr (.inr (.inr (.inr (.inr (.inl ⟨by omega, by omega, rfl⟩)))))
      · split
        · split
          · exact .inr (.inl ⟨by omega, by omega, rfl⟩)
          · exact .inr (.inr (.inr (.inr (.inr (.inl ⟨by omega, by omega, rfl⟩)))))
        · split
          · split
            · exact .inr (.inr (.inl ⟨by omega, by omega, rfl⟩))
            · exact .inr (.inr (.inr (.inr (.inr (.inr (.inl ⟨by omega, by omega, rfl⟩))))))
          · split
            · exact .inr (.inr (.inr (.inl ⟨by omega, rfl⟩)))
            · split
              · split
                · exact .inr (.inr (.inr (.inr (.inl ⟨by omega, by omega, rfl⟩))))
                · exact .inr (.inr (.inr (.inr (.inr (.inl ⟨by omega, by omega, rfl⟩)))))
              · exact .inr (.inr (.inr (.inr (.inr (.inr (.inr ⟨by omega, rfl⟩))))))

/-- The count of a decoded absorb is 0..8 (30_encoding.md R83). -/
theorem decode_absorb_count {v : Word} {n : BitVec 4} (h : decode v = .command (.absorb n)) : n.toNat ≤ 8 := by
  have hc := fieldByteCount_toNat v
  rcases decode_cases v with h' | h' | ⟨_, _, h' | h' | ⟨_, hle, h'⟩ | h' | h' | h' | h' | h'⟩ <;>
    simp_all
  omega

/-- A word is legal exactly when it decodes to a command (30_encoding.md R83, R86). -/
theorem legal_iff_command (v : Word) : Machine.legal v ↔ ∃ i, decode v = .command i := by
  unfold Machine.legal
  constructor
  · intro hl
    rcases decode_cases v with ⟨_, h⟩ | ⟨_, _, h⟩ | ⟨_, _, h⟩
    · omega
    · omega
    · rcases h with ⟨_, _, h⟩ | ⟨_, _, h⟩ | ⟨_, _, h⟩ | ⟨_, h⟩ | ⟨_, _, h⟩ | ⟨_, _, h⟩ | ⟨_, _, h⟩ | ⟨_, h⟩
      · exact ⟨_, h⟩
      · exact ⟨_, h⟩
      · exact ⟨_, h⟩
      · exact ⟨_, h⟩
      · exact ⟨_, h⟩
      · omega
      · omega
      · omega
  · rintro ⟨i, hi⟩
    rcases decode_cases v with ⟨_, h⟩ | ⟨_, _, h⟩ | ⟨_, _, h⟩
    · simp [h] at hi
    · simp [h] at hi
    · rcases h with ⟨_, _, h⟩ | ⟨_, _, h⟩ | ⟨_, _, h⟩ | ⟨_, h⟩ | ⟨_, _, h⟩ | ⟨_, _, h⟩ | ⟨_, _, h⟩ | ⟨_, h⟩
      · omega
      · omega
      · omega
      · omega
      · omega
      · simp [h] at hi
      · simp [h] at hi
      · simp [h] at hi

/-- The encoding of each command as a number (30_encoding.md R88). -/
theorem encode_toNat (i : Instr) :
    (encode i).toNat =
      match i with
      | .nop => 0
      | .init => 0x1000000
      | .absorb n => 0x2000000 + n.toNat
      | .absorbB b => 0x3000000 + b.toNat
      | .final => 0x4000000 := by
  cases i with
  | nop => decide
  | init => decide
  | final => decide
  | absorb n => revert n; decide
  | absorbB b => revert b; decide

end Sys2Proof
end

