-- ==== Sys2Proof/Laws/Step.lean ====
section
/-! SUPPORT. What a command, the port and a step can do, said once. -/

namespace Sys2Proof.Machine

/-! ### The commands -/

@[simp] theorem exec_nop (s : State) : exec .nop s = .next s := rfl

@[simp] theorem exec_init (s : State) : exec .init s = .next s.construct := rfl

theorem exec_absorb_legal {n : BitVec 4} (h : n.toNat ≤ 8) (s : State) :
    exec (.absorb n) s = .next (s.absorbBytes (lanes s.dataIn n.toNat)) := if_pos h

theorem exec_absorb_illegal {n : BitVec 4} (h : ¬ n.toNat ≤ 8) (s : State) :
    exec (.absorb n) s = .next (s.raiseError .illegalCmd) := if_neg h

@[simp] theorem exec_absorbB (m : Byte) (s : State) : exec (.absorbB m) s = .next (s.absorbBytes [m]) := rfl

theorem exec_final_again {s : State} (h : s.final = true) : exec .final s = .next s := if_pos h

theorem exec_final_first {s : State} (h : s.final = false) : exec .final s = .next s.pad.latchDigest := by
  show (if s.final = true then _ else _) = _
  rw [if_neg (by simp [h])]

/-- What a command can do: nothing, init's assignments, one of the error entries, bytes absorbed, or Pad and the latch. -/
theorem exec_cases {i : Instr} {s t : State} (h : exec i s = .next t) :
    t = s ∨ (i = .init ∧ t = s.construct) ∨
    (∃ e, t = s.raiseError e ∧ ((∃ n, i = .absorb n) ∨ ∃ m, i = .absorbB m)) ∨
    (∃ ms, s.final = false ∧ s.len.toNat + 8 * ms.length < 2 ^ 128 ∧ t = (s.absorbLoop ms).addLen ms.length ∧
      ((∃ n, i = .absorb n ∧ n.toNat ≤ 8 ∧ ms = lanes s.dataIn n.toNat) ∨ ∃ m, i = .absorbB m ∧ ms = [m])) ∨
    (i = .final ∧ s.final = false ∧ t = s.pad.latchDigest) := by
  cases i with
  | nop => cases h; exact .inl rfl
  | init => cases h; exact .inr (.inl ⟨rfl, rfl⟩)
  | absorb n =>
    by_cases hn : n.toNat ≤ 8
    · rw [exec_absorb_legal hn] at h
      cases h
      rcases State.absorbBytes_cases s (lanes s.dataIn n.toNat) with ⟨_, h⟩ | ⟨_, _, h⟩ | ⟨hf, hl, h⟩
      · exact .inr (.inr (.inl ⟨_, h, .inl ⟨n, rfl⟩⟩))
      · exact .inr (.inr (.inl ⟨_, h, .inl ⟨n, rfl⟩⟩))
      · exact .inr (.inr (.inr (.inl ⟨_, hf, hl, h, .inl ⟨n, rfl, hn, rfl⟩⟩)))
    · rw [exec_absorb_illegal hn] at h
      cases h
      exact .inr (.inr (.inl ⟨_, rfl, .inl ⟨n, rfl⟩⟩))
  | absorbB m =>
    rw [exec_absorbB] at h
    cases h
    rcases State.absorbBytes_cases s [m] with ⟨_, h⟩ | ⟨_, _, h⟩ | ⟨hf, hl, h⟩
    · exact .inr (.inr (.inl ⟨_, h, .inr ⟨m, rfl⟩⟩))
    · exact .inr (.inr (.inl ⟨_, h, .inr ⟨m, rfl⟩⟩))
    · exact .inr (.inr (.inr (.inl ⟨_, hf, hl, h, .inr ⟨m, rfl, rfl⟩⟩)))
  | final =>
    cases hf : s.final with
    | true => rw [exec_final_again hf] at h; cases h; exact .inl rfl
    | false => rw [exec_final_first hf] at h; cases h; exact .inr (.inr (.inr (.inr ⟨rfl, rfl, rfl⟩)))

/-- Every command answers a next state. -/
theorem exec_answers (i : Instr) (s : State) : ∃ t, exec i s = .next t := by
  cases i with
  | nop => exact ⟨_, rfl⟩
  | init => exact ⟨_, rfl⟩
  | absorb n =>
    by_cases hn : n.toNat ≤ 8
    · exact ⟨_, exec_absorb_legal hn s⟩
    · exact ⟨_, exec_absorb_illegal hn s⟩
  | absorbB m => exact ⟨_, rfl⟩
  | final =>
    cases hf : s.final with
    | true => exact ⟨_, exec_final_again hf⟩
    | false => exact ⟨_, exec_final_first hf⟩

/-! ### The engine step -/

/-- The pending word performed is a command, or the illegal command. -/
theorem performWord_cases {v : Word} {s t : State} (h : performWord v s = .next t) :
    (∃ i, decode v = .command i ∧ exec i s = .next t) ∨
    (∃ why, decode v = .illegal why ∧ t = s.raiseError .illegalCmd) := by
  unfold performWord at h
  split at h
  · exact .inl ⟨_, ‹_›, h⟩
  · cases h; exact .inr ⟨_, ‹_›, rfl⟩

theorem performWord_answers (v : Word) (s : State) : ∃ t, performWord v s = .next t := by
  unfold performWord
  split
  · exact exec_answers _ _
  · exact ⟨_, rfl⟩

/-- The engine step with a command pending: the word performed, then BUSY falls (41_commands.md R130). -/
theorem engineStep_cases {s t : State} (h : engineStep s = .next t) :
    ∃ v u, s.pend = some v ∧ performWord v s = .next u ∧ t = u.complete := by
  unfold engineStep at h
  split at h
  · cases h
  · obtain ⟨u, hu⟩ := performWord_answers ‹Word› s
    rw [hu] at h
    cases h
    exact ⟨_, u, ‹_›, hu, rfl⟩

theorem engineStep_pending {s : State} {v : Word} (h : s.pend = some v) :
    engineStep s = completeOutcome (performWord v s) := by
  simp [engineStep, h]

/-! ### The port -/

/-- What the port does with the oldest waiting access of a host: nothing (no access, or a hold), a bus error or read data
answered, a command accepted, or DATA_IN written (20_memory.md R54 to R57). -/
theorem serve_cases (s : State) (host : Nat) :
    s.serve host = s ∨
    (∃ a r, s.oldestOf host = some a ∧ s.serve host = s.answer host r) ∨
    (∃ a, s.oldestOf host = some a ∧ a.width = 64 ∧ a.dir = .write ∧ a.off.toNat = 0x00 ∧ s.busy = false ∧
      s.serve host = (s.acceptCommand a.value).answer host .written) ∨
    (∃ a, s.oldestOf host = some a ∧ a.width = 64 ∧ a.dir = .write ∧ a.off.toNat = 0x08 ∧ s.busy = false ∧
      s.serve host = (s.withDataIn a.value).answer host .written) := by
  unfold State.serve
  cases ho : s.oldestOf host with
  | none => exact .inl rfl
  | some a =>
    dsimp only
    cases hp : portAccess a s with
    | busError r => exact .inr (.inl ⟨a, _, rfl, rfl⟩)
    | hold => exact .inl rfl
    | readDone v => exact .inr (.inl ⟨a, _, rfl, rfl⟩)
    | writeDone s' =>
      dsimp only
      unfold portAccess at hp
      split at hp
      · cases hp
      · split at hp
        · cases hp
        · split at hp
          · cases hp
          · rename_i hw _ _ row hr
            split at hp
            · cases hp
            · split at hp
              · cases hp
              · rename_i _ hb
                unfold performAccess at hp
                cases hd : a.dir with
                | read => rw [hd] at hp; dsimp only at hp; split at hp <;> cases hp
                | write =>
                  rw [hd] at hp hb
                  dsimp only at hp
                  have hmem := List.mem_of_find?_eq_some hr
                  have hoff := List.find?_some hr
                  simp only [registerMap, List.mem_cons, List.not_mem_nil, or_false] at hmem
                  simp only [ne_eq, Decidable.not_not] at hw
                  rcases hmem with rfl | rfl | rfl | rfl | rfl | rfl | rfl | rfl | rfl | rfl | rfl <;>
                    simp [portWrite, RegRow.holds] at hp hb hoff
                  · subst hp; exact .inr (.inr (.inl ⟨a, rfl, hw, hd, by simp [← hoff], hb, rfl⟩))
                  · subst hp; exact .inr (.inr (.inr ⟨a, rfl, hw, hd, by simp [← hoff], hb, rfl⟩))

/-! ### The step -/

/-- A step is one of five things: the engine step, nothing but an input taken, an access issued, an access looked at, or a
reset. -/
theorem step_cases {s t : State} (h : step s = .next t) :
    (EngineIsNext s ∧ engineStep (s.withInputs s.inputs.tail) = .next t) ∨
    (s.busy = false ∧ t = s.withInputs s.inputs.tail) ∨
    (∃ a rest, s.inputs = .issue a :: rest ∧ t = (s.withInputs rest).issue a) ∨
    (∃ host, ((∃ rest, s.inputs = .serve host :: rest) ∨
        (s.inputs = [] ∧ s.busy = false ∧ ∃ a, s.waiting.head? = some a ∧ a.host = host)) ∧
      t = (s.withInputs s.inputs.tail).serve host) ∨
    (∃ rest, s.inputs = .reset :: rest ∧ t = (s.withInputs rest).resetEngine) := by
  have hself : ∀ h : s.inputs = [], s.withInputs s.inputs.tail = s := by
    intro h
    cases s
    simp_all [State.withInputs]
  unfold step machineStep at h
  cases hi : s.inputs with
  | nil =>
    rw [hi] at h hself
    dsimp only at h
    unfold quietStep at h
    cases hb : s.busy with
    | true =>
      rw [hb, if_pos rfl] at h
      exact .inl ⟨⟨hb, .inl hi⟩, by rw [hself rfl]; exact h⟩
    | false =>
      rw [hb, if_neg (by simp)] at h
      cases hw : s.waiting with
      | nil => rw [hw] at h; cases h; exact .inr (.inl ⟨rfl, (hself rfl).symm⟩)
      | cons a as =>
        rw [hw] at h
        cases h
        exact .inr (.inr (.inr (.inl ⟨a.host, .inr ⟨rfl, rfl, a, rfl, rfl⟩, by rw [hself rfl]⟩)))
  | cons i rest =>
    rw [hi] at h
    dsimp only at h
    cases i with
    | engine =>
      change engineTurn (s.withInputs rest) = .next t at h
      unfold engineTurn at h
      rw [State.withInputs_busy] at h
      cases hb : s.busy with
      | true =>
        rw [hb, if_pos rfl] at h
        exact .inl ⟨⟨hb, .inr ⟨rest, hi⟩⟩, h⟩
      | false => rw [hb, if_neg (by simp)] at h; cases h; exact .inr (.inl ⟨rfl, rfl⟩)
    | issue a => cases h; exact .inr (.inr (.inl ⟨a, rest, rfl, rfl⟩))
    | serve host => cases h; exact .inr (.inr (.inr (.inl ⟨host, .inl ⟨rest, rfl⟩, rfl⟩)))
    | reset => cases h; exact .inr (.inr (.inr (.inr ⟨rest, rfl, rfl⟩)))

/-- When the engine is next, the step is the engine step on the state with that input taken. -/
theorem step_engine {s : State} (h : EngineIsNext s) : step s = engineStep (s.withInputs s.inputs.tail) := by
  obtain ⟨hb, hi | ⟨rest, hi⟩⟩ := h
  · have : s.withInputs s.inputs.tail = s := by cases s; simp_all [State.withInputs]
    rw [this]
    simp [step, machineStep, hi, quietStep, hb]
  · simp [step, machineStep, hi, inputStep, engineTurn, hb]

/-- When the engine is next and `v` is pending, the step performs `v` on the state with that input taken, and BUSY falls. -/
theorem step_performs {s : State} {v : Word} (h : EngineIsNext s) (hv : s.pend = some v) :
    step s = completeOutcome (performWord v (s.withInputs s.inputs.tail)) := by
  rw [step_engine h, engineStep_pending (v := v) (by simpa using hv)]

end Sys2Proof.Machine
end

