-- ==== Sys2Proof/Laws/Events.lean ====
section
/-! SUPPORT. A step by the event it is, and what a step does when it runs a command or takes a reset. -/

namespace Sys2Proof.Machine

/-- The engine's step is a command run, or the illegal command. -/
theorem engineStep_events {s t : State} (hn : EngineIsNext s) (h : engineStep (s.withInputs s.inputs.tail) = .next t) :
    (∃ i u, Runs i s ∧ exec i (s.withInputs s.inputs.tail) = .next u ∧ t = u.complete) ∨
      t = ((s.withInputs s.inputs.tail).raiseError .illegalCmd).complete := by
  obtain ⟨v, u, hp, hw, rfl⟩ := engineStep_cases h
  rcases performWord_cases hw with ⟨i, hd, he⟩ | ⟨w, hd, rfl⟩
  · exact .inl ⟨i, u, ⟨hn, v, hp, hd⟩, he, rfl⟩
  · exact .inr rfl

/-- A step is one of eight events: a command, an illegal word, nothing, an access issued, an answer that changes no element, a
command accepted, DATA_IN written, a reset. -/
theorem step_events {s t : State} (h : step s = .next t) :
    (∃ i u, Runs i s ∧ exec i (s.withInputs s.inputs.tail) = .next u ∧ t = u.complete) ∨
    (EngineIsNext s ∧ t = ((s.withInputs s.inputs.tail).raiseError .illegalCmd).complete) ∨
    (t = s.withInputs s.inputs.tail) ∨
    (∃ a rest, s.inputs = .issue a :: rest ∧ t = (s.withInputs rest).issue a) ∨
    (∃ a r, Serves a s ∧ t = (s.withInputs s.inputs.tail).answer a.host r) ∨
    (∃ a, Serves a s ∧ a.width = 64 ∧ a.dir = .write ∧ a.off.toNat = 0 ∧ s.busy = false ∧
      t = ((s.withInputs s.inputs.tail).acceptCommand a.value).answer a.host .written) ∨
    (∃ a, Serves a s ∧ a.width = 64 ∧ a.dir = .write ∧ a.off.toNat = 8 ∧ s.busy = false ∧
      t = ((s.withInputs s.inputs.tail).withDataIn a.value).answer a.host .written) ∨
    (∃ rest, s.inputs = .reset :: rest ∧ t = (s.withInputs rest).resetEngine) := by
  rcases step_cases h with ⟨hn, h⟩ | ⟨_, h⟩ | h | ⟨host, hs, h⟩ | h
  · rcases engineStep_events hn h with h | h
    · exact .inl h
    · exact .inr (.inl ⟨hn, h⟩)
  · exact .inr (.inr (.inl h))
  · exact .inr (.inr (.inr (.inl h)))
  · have hserve : ∀ a, s.oldestOf host = some a → a.host = host ∧ Serves a s := by
      intro a ha
      have hh : a.host = host := by simpa using List.find?_some ha
      refine ⟨hh, ?_⟩
      rcases hs with ⟨rest, hr⟩ | ⟨hi, hb, b, hb2, hb3⟩
      · exact .inl ⟨rest, by rw [hh]; exact hr, by rw [hh]; exact ha⟩
      · refine .inr ⟨hi, hb, ?_⟩
        cases hw : s.waiting with
        | nil => simp [hw] at hb2
        | cons c cs =>
          simp only [hw, List.head?_cons, Option.some.injEq] at hb2
          subst hb2
          simp [State.oldestOf, hw, hb3] at ha
          simp [ha]
    rcases serve_cases (s.withInputs s.inputs.tail) host with h' | ⟨a, r, ho, h'⟩ | ⟨a, ho, hw, hd, hz, hb, h'⟩ |
        ⟨a, ho, hw, hd, hz, hb, h'⟩
    · exact .inr (.inr (.inl (h.trans h')))
    · obtain ⟨hh, hs⟩ := hserve a ho
      exact .inr (.inr (.inr (.inr (.inl ⟨a, r, hs, by rw [h, h', hh]⟩))))
    · obtain ⟨hh, hs⟩ := hserve a ho
      exact .inr (.inr (.inr (.inr (.inr (.inl ⟨a, hs, hw, hd, hz, hb, by rw [h, h', hh]⟩)))))
    · obtain ⟨hh, hs⟩ := hserve a ho
      exact .inr (.inr (.inr (.inr (.inr (.inr (.inl ⟨a, hs, hw, hd, hz, hb, by rw [h, h', hh]⟩))))))
  · exact .inr (.inr (.inr (.inr (.inr (.inr (.inr h))))))

theorem runs_injective {s : State} {i j : Instr} (hr : Runs i s) (hj : Runs j s) : i = j := by
  obtain ⟨_, v, hv, hd⟩ := hr
  obtain ⟨_, w, hw, hd'⟩ := hj
  rw [hv] at hw
  cases hw
  rw [hd] at hd'
  cases hd'
  rfl

/-- A step that runs `i` is `i`'s effect and the completion. -/
theorem runs_step {s t : State} {i : Instr} (hr : Runs i s) (h : step s = .next t) :
    ∃ u, exec i (s.withInputs s.inputs.tail) = .next u ∧ t = u.complete := by
  obtain ⟨hn, v, hp, hd⟩ := hr
  rw [step_performs hn hp] at h
  simp only [performWord, hd] at h
  obtain ⟨u, hu⟩ := exec_answers i (s.withInputs s.inputs.tail)
  rw [hu] at h
  cases h
  exact ⟨u, hu, rfl⟩

/-- A step that takes a reset is the reset of the engine. -/
theorem takesReset_step {s t : State} (hr : TakesReset s) (h : step s = .next t) :
    ∃ rest, t = (s.withInputs rest).resetEngine := by
  obtain ⟨rest, hi⟩ := hr
  simp only [step, machineStep, hi, inputStep, Host.Outcome.next.injEq] at h
  exact ⟨rest, h.symm⟩

end Sys2Proof.Machine
end

