-- ==== Sys2Proof/Laws/HostMemory.lean ====
section
/-! SUPPORT. A host's byte order: words and the bytes in which a host keeps them. -/

namespace Sys2Proof.Machine

/-- A packed word as a number. -/
theorem toNat_be64 (b0 b1 b2 b3 b4 b5 b6 b7 : Byte) :
    (be64 b0 b1 b2 b3 b4 b5 b6 b7).toNat =
      ((((((b0.toNat * 256 + b1.toNat) * 256 + b2.toNat) * 256 + b3.toNat) * 256 + b4.toNat) * 256 + b5.toNat) * 256 +
        b6.toNat) * 256 + b7.toNat := by
  have h : ∀ (n : Nat) (b : Byte), n <<< 8 ||| b.toNat = n * 256 + b.toNat := by
    intro n b
    rw [← Nat.shiftLeft_add_eq_or_of_lt b.isLt, Nat.shiftLeft_eq]
  simp only [be64, BitVec.toNat_append, h]

/-- Byte `i` of a packed word. -/
@[simp] theorem lane_wordOfBytes (b : Fin 8 → Byte) (i : Fin 8) : lane (wordOfBytes b) i = b i := by
  apply BitVec.eq_of_toNat_eq
  have h0 := (b 0).isLt
  have h1 := (b 1).isLt
  have h2 := (b 2).isLt
  have h3 := (b 3).isLt
  have h4 := (b 4).isLt
  have h5 := (b 5).isLt
  have h6 := (b 6).isLt
  have h7 := (b 7).isLt
  simp only [lane, wordOfBytes, BitVec.extractLsb'_toNat, toNat_be64, Nat.shiftRight_eq_div_pow]
  fin_cases i <;> simp <;> omega

/-- A word is its eight bytes. -/
theorem wordOfBytes_lane (v : Word) : (wordOfBytes fun i => lane v i) = v := by
  apply BitVec.eq_of_toNat_eq
  have hv := v.isLt
  simp only [wordOfBytes, lane, toNat_be64, BitVec.extractLsb'_toNat, Nat.shiftRight_eq_div_pow]
  simp
  omega

@[simp] theorem lane_loadWord (o : HostByteOrder) (m : HostBytes) (i : Fin 8) : lane (loadWord o m) i = m[o.symm i] :=
  lane_wordOfBytes _ i

@[simp] theorem lane_permuteLanes (p : Equiv.Perm (Fin 8)) (v : Word) (i : Fin 8) :
    lane (permuteLanes p v) i = lane v (p i) := lane_wordOfBytes _ i

/-- A stored word loads back. -/
theorem loadWord_storeWord (o : HostByteOrder) (v : Word) : loadWord o (storeWord o v) = v := by
  have h : ∀ i : Fin 8, (storeWord o v)[o.symm i] = lane v i := by intro i; simp [storeWord]
  simp only [loadWord, h, wordOfBytes_lane]

/-- Whatever the host's byte order, DATA_IN holds the first byte of the array in lane 0. -/
theorem dataInOf_eq (o : HostByteOrder) (m : HostBytes) : dataInOf o m = wordOfBytes fun i => m[i] := by
  simp only [dataInOf, permuteLanes, lane_loadWord, Equiv.symm_apply_apply]

/-- Whatever the host's byte order, a split word stands in the array most significant byte first. -/
theorem splitWord_eq (o : HostByteOrder) (v : Word) : splitWord o v = Vector.ofFn fun p : Fin 8 => lane v p := by
  simp only [splitWord, storeWord, lane_permuteLanes, Equiv.symm_apply_apply]

end Sys2Proof.Machine
end

