-- ==== Sys2Proof/Laws/HostProgram.lean ====
section
/-! SUPPORT. Runs of a host program on an engine: runs compose, and what one access of the host does on an idle engine. -/

namespace Sys2Proof.Machine

/-! ### Assembly -/

/-- Pieces without an error are joined in order. -/
theorem joinAll_map_some {α : Type} (f : α → List HostInstr) (l : List α) :
    joinAll (l.map fun x => some (f x)) = some (l.flatMap f) := by
  induction l with
  | nil => rfl
  | cons x l ih => simp [joinAll, ih]

/-! ### Runs -/

/-- Some number of steps leads from `m` to `m'`. -/
def Hosted.Reaches (act : BusErrorAction) (m m' : Hosted) : Prop := ∃ k, Hosted.run act k m = .next m'

theorem Hosted.Reaches.refl (act : BusErrorAction) (m : Hosted) : Hosted.Reaches act m m := ⟨0, rfl⟩

/-- A step, then a run. -/
theorem Hosted.Reaches.head {act : BusErrorAction} {m m' m'' : Hosted} (h : m.step act = .next m')
    (h' : Hosted.Reaches act m' m'') : Hosted.Reaches act m m'' := by
  obtain ⟨k, hk⟩ := h'
  exact ⟨k + 1, by simp only [Hosted.run, h, hk]⟩

theorem Hosted.Reaches.single {act : BusErrorAction} {m m' : Hosted} (h : m.step act = .next m') :
    Hosted.Reaches act m m' := .head h (.refl act m')

theorem Hosted.Reaches.trans {act : BusErrorAction} {m m' m'' : Hosted} (h : Hosted.Reaches act m m')
    (h' : Hosted.Reaches act m' m'') : Hosted.Reaches act m m'' := by
  obtain ⟨k, hk⟩ := h
  induction k generalizing m with
  | zero => cases hk; exact h'
  | succ k ih =>
    simp only [Hosted.run] at hk
    split at hk
    · exact .head ‹_› (ih hk)
    · cases hk
    · cases hk

/-! ### One access of the host on an idle engine -/

/-- A host that is about to run `i` on an idle engine, no turn chosen. -/
def Hosted.About (i : HostInstr) (m : Hosted) : Prop :=
  m.turns = [] ∧ m.engine.busy = false ∧ m.host.status = .running ∧ m.host.program[m.host.pc]? = some i

/-- The step of a host about to run `i` is that instruction. -/
theorem Hosted.About.step {i : HostInstr} {m : Hosted} (h : m.About i) (act : BusErrorAction) :
    m.step act = .next (m.withPair (hostExec act i m.host m.engine)) := by
  obtain ⟨ht, hb, hr, hp⟩ := h
  simp [Hosted.step, ht, hb, Hosted.hostActs, hostTurn, hr, hp]

theorem portAccess_write_cmd {s : State} (v : Word) (h : s.busy = false) :
    portAccess (hostAccess .write 0x00 v) s = .writeDone (s.acceptCommand v) := by
  simp [portAccess, hostAccess, registerAt, registerMap, RegRow.allows, RegRow.holds, h, performAccess, portWrite]

theorem portAccess_write_dataIn {s : State} (v : Word) (h : s.busy = false) :
    portAccess (hostAccess .write 0x08 v) s = .writeDone (s.withDataIn v) := by
  simp [portAccess, hostAccess, registerAt, registerMap, RegRow.allows, RegRow.holds, h, performAccess, portWrite]

theorem portAccess_read_status (s : State) :
    portAccess (hostAccess .read 0x10 0) s = .readDone (statusWord s) := by
  simp [portAccess, hostAccess, registerAt, registerMap, RegRow.allows, RegRow.holds, performAccess, portRead]

/-- DATA_IN written: one step. -/
theorem Hosted.About.writes_dataIn {m : Hosted} {v : Word} (h : m.About (.wr 0x08 (.imm v))) (act : BusErrorAction) :
    Hosted.Reaches act m (m.withPair (m.host.advance, m.engine.withDataIn v)) := by
  refine .single ?_
  rw [h.step act]
  simp only [hostExec, hostWrite, HostState.source, portAccess_write_dataIn v h.2.1]

/-- A command written: the step that writes it, and the engine step that performs it. -/
theorem Hosted.About.writes_cmd {m : Hosted} {v : Word} {t : State} (h : m.About (.wr 0x00 (.imm v)))
    (ht : performWord v (m.engine.acceptCommand v) = .next t) (act : BusErrorAction) :
    Hosted.Reaches act m (m.withPair (m.host.advance, t.complete)) := by
  have h1 : m.step act = .next (m.withPair (m.host.advance, m.engine.acceptCommand v)) := by
    rw [h.step act]
    simp only [hostExec, hostWrite, HostState.source, portAccess_write_cmd v h.2.1]
  refine .head h1 (.single ?_)
  have ht0 : (m.withPair (m.host.advance, m.engine.acceptCommand v)).turns = [] := h.1
  have hb : (m.withPair (m.host.advance, m.engine.acceptCommand v)).engine.busy = true := rfl
  have he : engineTurn (m.engine.acceptCommand v) = .next t.complete := by
    simp only [engineTurn, State.acceptCommand_busy, if_pos]
    rw [engineStep_pending (v := v) rfl, ht]
    rfl
  have he' : engineTurn (m.withPair (m.host.advance, m.engine.acceptCommand v)).engine = .next t.complete := he
  simp only [Hosted.step, ht0, hb, if_pos, Hosted.engineActs, he']
  rfl

end Sys2Proof.Machine
end

