-- ==== Sys2Proof/Laws/Message.lean ====
section
/-! SUPPORT. The blocks of a byte sequence, the chaining value, and the padded message (41_commands.md R132). -/

namespace Sys2Proof.Machine

/-- A block that lies in the first part is a block of the first part. -/
theorem blockOf_append {xs : List Byte} (ys : List Byte) {j : Nat} (h : 128 * (j + 1) ≤ xs.length) :
    blockOf (xs ++ ys) j = blockOf xs j := by
  apply Vector.ext
  intro i hi
  simp only [blockOf, Vector.getElem_ofFn]
  rw [List.getD_append _ _ _ _ (by omega)]

/-- The chaining value of leading blocks depends on those blocks only. -/
theorem chain_append (xs ys : List Byte) (n : Nat) (h : 128 * n ≤ xs.length) : chain (xs ++ ys) n = chain xs n := by
  induction n with
  | zero => rfl
  | succ n ih => rw [chain, chain, ih (by omega), blockOf_append ys h]

theorem padMessage_length (msg : List Byte) : (padMessage msg).length = msg.length + 17 + padZeros msg.length := by
  simp [padMessage, bytesBE]
  omega

/-- The bytes of a padded message: the message, 0x80, zeros, the length field. -/
theorem padMessage_getD (msg : List Byte) (i : Nat) (hi : i < (padMessage msg).length) :
    (padMessage msg).getD i 0 =
      if i < msg.length then msg.getD i 0
      else if i = msg.length then 0x80
      else if i < msg.length + 1 + padZeros msg.length then 0
      else byteBE (BitVec.ofNat 128 (8 * msg.length)) 16 (i - (msg.length + 1 + padZeros msg.length)) := by
  rw [padMessage_length] at hi
  unfold padMessage
  split
  · rw [List.getD_append _ _ _ _ (by simp; omega), List.getD_append _ _ _ _ (by simp; omega),
      List.getD_append _ _ _ _ (by omega)]
  · split
    · rw [List.getD_append _ _ _ _ (by simp; omega), List.getD_append _ _ _ _ (by simp; omega),
        List.getD_append_right _ _ _ _ (by omega), show i - msg.length = 0 by omega]
      rfl
    · split
      · rw [List.getD_append _ _ _ _ (by simp; omega), List.getD_append_right _ _ _ _ (by simp; omega),
          List.getD_eq_getElem _ _ (by simp; omega), List.getElem_replicate]
      · rw [List.getD_append_right _ _ _ _ (by simp; omega)]
        simp only [List.length_append, List.length_singleton, List.length_replicate, bytesBE]
        rw [List.getD_eq_getElem _ _ (by simp; omega)]
        simp

/-- The whole blocks of a message are the first blocks of the padded message. -/
theorem chain_padMessage (msg : List Byte) :
    chain (padMessage msg) (msg.length / 128) = chain msg (msg.length / 128) := by
  unfold padMessage
  rw [List.append_assoc, List.append_assoc]
  exact chain_append _ _ _ (by omega)

end Sys2Proof.Machine
end

