-- ==== Sys2Proof/Laws/PerInstr.lean ====
section
/-! SUPPORT. A fact of every instruction as syntax, by constructor: its word matches its opcode-table row, and no bit that
30_encoding.md R80 reserves is set in it. -/

namespace Sys2Proof.Laws

/-- The word of a command matches the command's row of the table (30_encoding.md R87), and RSV_HI and RSV_MID are 0 in it (R80). -/
def EncodingShape.Statement (i : Instr) : Prop :=
  (rowOf i).matchesWord (encode i) = true ∧ fieldHigh (encode i) = 0 ∧ fieldMiddle (encode i) = 0

theorem EncodingShape.nop : EncodingShape.Statement .nop := by unfold EncodingShape.Statement; decide

theorem EncodingShape.init : EncodingShape.Statement .init := by unfold EncodingShape.Statement; decide

theorem EncodingShape.absorb (nbytes : BitVec 4) : EncodingShape.Statement (.absorb nbytes) := by
  unfold EncodingShape.Statement; revert nbytes; decide

theorem EncodingShape.absorbB (imm8 : Byte) : EncodingShape.Statement (.absorbB imm8) := by
  unfold EncodingShape.Statement; revert imm8; decide

theorem EncodingShape.final : EncodingShape.Statement .final := by unfold EncodingShape.Statement; decide

end Sys2Proof.Laws
end

