-- ==== Sys2Proof/Laws/Schedule.lean ====
section
/-! SUPPORT. The schedule word by word (40_compression.md R108, R109). -/

namespace Sys2Proof.Machine

/-- Further expansion keeps the words already there. -/
theorem expand_prefix (blk : Block) (n k i : Nat) (h : i < 16 + n) :
    (expand blk (n + k))[i]'(by omega) = (expand blk n)[i] := by
  induction k with
  | zero => rfl
  | succ k ih =>
    change (expand blk (n + k + 1))[i]'(by omega) = _
    simp only [expand]
    rw [Vector.getElem_push_lt (by omega)]
    exact ih

/-- The same, between any two lengths. -/
theorem expand_agree (blk : Block) {n m : Nat} (i : Nat) (hm : n ≤ m) (h : i < 16 + n) :
    (expand blk m)[i]'(by omega) = (expand blk n)[i] := by
  obtain ⟨k, rfl⟩ := Nat.exists_eq_add_of_le hm
  exact expand_prefix blk n k i h

/-- A word of the schedule is the word of any expansion that reaches it. -/
theorem schedule_eq_expand (blk : Block) (n i : Nat) (hn : n ≤ 64) (h : i < 16 + n) :
    (schedule blk)[i]'(by omega) = (expand blk n)[i] := expand_agree blk i hn h

end Sys2Proof.Machine
end

