-- ==== Sys2Proof/Tests/Slice0.lean ====
section
/-! SUPPORT. Tests on values taken from the spec, and for each statement with hypotheses a state and operands that meet them. -/

namespace Sys2Proof.Tests

open Sys2Proof.Machine

/-! ### Helpers -/

/-- An idle engine with these values of BUF_LEN, LEN and FINAL. -/
def engine (n : BitVec 7) (l : BitVec 128) (f : Bool) : State := { State.reset with bufLen := n, len := l, final := f }

/-- After reset, with DATA_IN as the rows of 95_test_vectors.md T5 start. -/
def loaded : State := { State.reset with dataIn := 0x6162630000000000 }

/-- After reset, `v` pending and the engine next. -/
def pending (v : Word) : State := State.reset.withPending v

/-- `a` waits and is the next access served. -/
def serving (a : Access) (busy : Bool) : State :=
  { State.reset with busy := busy, pend := if busy then some 0 else none, waiting := [a], inputs := [.serve a.host] }

def readOf (off : BitVec 7) : Access := ⟨0, .read, off, 64, 0⟩

def writeOf (off : BitVec 7) (v : Word) : Access := ⟨0, .write, off, 64, v⟩

/-- What `f` sees of the next state. -/
def seen {α : Type} (f : State → α) (o : Host.Outcome State Fault Refusal) : Option α :=
  match o with
  | .next s => some (f s)
  | .fault _ => none
  | .refused _ => none

/-- STATUS and LEN. -/
def view (s : State) : Word × BitVec 128 := (statusWord s, s.len)

/-! ### Well-formedness: NBYTES is 0..8 (30_encoding.md R81) -/

theorem test_wellFormed_admits_eight : WellFormed (.absorb 8) := by decide

theorem test_wellFormed_refuses_nine : ¬ WellFormed (.absorb 9) := by decide

theorem test_wellFormed_refuses_fifteen : ¬ WellFormed (.absorb 15) := by decide

/-! ### Decoding: words from 30_encoding.md R81, R88 and 95_test_vectors.md T5 -/

theorem test_decode_nop : decode 0x0000000000000000 = .command .nop := by decide

theorem test_decode_init : decode 0x0000000001000000 = .command .init := by decide

theorem test_decode_absorb_0 : decode 0x0000000002000000 = .command (.absorb 0) := by decide

theorem test_decode_absorb_8 : decode 0x0000000002000008 = .command (.absorb 8) := by decide

theorem test_decode_absorbB : decode 0x0000000003000061 = .command (.absorbB 0x61) := by decide

theorem test_decode_absorbB_all_ones : decode 0x00000000030000FF = .command (.absorbB 0xFF) := by decide

theorem test_decode_final : decode 0x0000000004000000 = .command .final := by decide

theorem test_decode_refuses_count_9 : decode 0x0000000002000009 = .illegal .byteCount := by decide

theorem test_decode_refuses_high_argument_bits : decode 0x0000000002000012 = .illegal .byteCount := by decide

theorem test_decode_refuses_first_reserved : decode 0x0000000005000000 = .illegal .reservedOpcode := by decide

theorem test_decode_refuses_last_reserved : decode 0x00000000FF000000 = .illegal .reservedOpcode := by decide

theorem test_decode_refuses_nop_argument : decode 0x0000000000000001 = .illegal .nonzeroArgument := by decide

theorem test_decode_refuses_init_argument : decode 0x0000000001000001 = .illegal .nonzeroArgument := by decide

theorem test_decode_refuses_final_argument : decode 0x0000000004000080 = .illegal .nonzeroArgument := by decide

theorem test_decode_refuses_bit_8 : decode 0x0000000002000103 = .illegal .reservedMiddle := by decide

theorem test_decode_refuses_bit_32 : decode 0x0000000102000003 = .illegal .reservedHigh := by decide

theorem test_decode_refuses_bit_63 : decode 0x8000000000000000 = .illegal .reservedHigh := by decide

/-- No word matches two rows: two rows differ under the bits both look at (30_encoding.md R87). -/
theorem test_opcode_rows_disjoint :
    opcodeRows.Pairwise fun r r' => r.pattern &&& r'.mask ≠ r'.pattern &&& r.mask := by decide

theorem test_table_word_decodes : decodeTableWord 64 0x2000003 = some (.absorb 3) := by decide

theorem test_fetch_word_runs_first : seen view (step (State.reset.withFetchWord 64 0x3000080)) = some (0x0100, 8) := by
  decide

/-! ### One command each: 95_test_vectors.md T5, T6 -/

theorem test_nop : seen view (exec .nop loaded) = some (0x0000, 0) := by decide

theorem test_init_clears_error : seen view (exec .init { engine 3 24 true with err := 2 }) = some (0x0000, 0) := by decide

theorem test_absorb_all_lanes : seen view (exec (.absorb 8) loaded) = some (0x0800, 0x40) := by decide

/-- 41_commands.md R135: the first lanes are the most significant bytes. -/
theorem test_absorb_lane_order :
    seen (fun s => (s.buf.toList.take 4, s.digest.d0)) (exec (.absorb 3) loaded) =
      some ([0x61, 0x62, 0x63, 0x00], 0) := by decide

/-- T6: the counter never wraps. -/
theorem test_absorbB_length_limit :
    seen view (exec (.absorbB 0x61) (engine 0 0xFFFFFFFFFFFFFFFFFFFFFFFFFFFFFFF0 false)) =
        some (0x0100, 0xFFFFFFFFFFFFFFFFFFFFFFFFFFFFFFF8) ∧
      seen view (exec (.absorbB 0x61) (engine 0 0xFFFFFFFFFFFFFFFFFFFFFFFFFFFFFFF8 false)) =
        some (0x0030, 0xFFFFFFFFFFFFFFFFFFFFFFFFFFFFFFF8) := by decide

theorem test_absorbB_after_final : seen view (exec (.absorbB 0x61) (engine 0 0 true)) = some (0x0012, 0) := by decide

/-- T5 row 16: the second final raises nothing. -/
theorem test_final_again : seen view (exec .final (engine 0 0 true)) = some (0x0002, 0) := by decide

/-- V1: final from reset latches the digest of the empty string. -/
theorem test_final_empty :
    seen (fun s => (s.digest, statusWord s)) (exec .final State.reset) =
      some (⟨0x38b060a751ac9638, 0x4cd9327eb1b1e36a, 0x21fdb71114be0743,
        0x4c0cc7bf63f6e1da, 0x274edebfe76f65fb, 0xd51ad2f14898b95b⟩, 0x0002) := by decide +kernel

theorem test_illegal_word : seen view (step (pending 0x0000000005000000)) = some (0x0020, 0) := by decide

/-! ### The datapath: 95_test_vectors.md T1, T2 -/

theorem test_smallSigma0 : smallSigma0 0x0123456789abcdef = 0x6f92c77c6c4f1aa1 := by decide

theorem test_smallSigma1 : smallSigma1 0x0123456789abcdef = 0x70a3460dbbd4317a := by decide

theorem test_bigSigma0 : bigSigma0 0x0123456789abcdef = 0xb7c57a100c7ec1ab := by decide

theorem test_bigSigma1 : bigSigma1 0x0123456789abcdef = 0x7703112333475567 := by decide

theorem test_ch : ch 0xf0f0f0f0f0f0f0f0 0xffffffffffffffff 0 = 0xf0f0f0f0f0f0f0f0 := by decide

theorem test_maj : maj 0xff00ff00ff00ff00 0x0ff00ff00ff00ff0 0x00ff00ff00ff00ff = 0x0ff00ff00ff00ff0 := by decide

/-- Round 0 of the padded "abc" block (40_compression.md R114). -/
theorem test_round_0 :
    roundStep 0 (WorkRegs.load HashRegs.iv) 0x6162638000000000 =
      ⟨0x470994ad30873f88, 0xcbbb9d5dc1059ed8, 0x629a292a367cd507, 0x9159015a3070dd17,
        0xbd03f724be6075f9, 0x67332667ffc00b31, 0x8eb44a8768581511, 0xdb0c2e0d64f98fa7⟩ := by decide

/-! ### The port: 20_memory.md R51 to R57 -/

theorem test_read_status : portAccess (readOf 0x10) (engine 3 24 false) = .readDone 0x0300 := by decide

theorem test_read_len_hi : portAccess (readOf 0x20) (engine 0 0x50000000000000007 false) = .readDone 5 := by decide

theorem test_read_cmd : portAccess (readOf 0x00) State.reset = .busError .access := by decide

theorem test_write_status : portAccess (writeOf 0x10 0) State.reset = .busError .access := by decide

theorem test_misaligned : portAccess (readOf 0x14) State.reset = .busError .align := by decide

theorem test_unmapped : portAccess (readOf 0x38) State.reset = .busError .unmapped := by decide

/-! ### Witnesses: what the hypotheses of a statement ask is met -/

theorem witness_ResetAbandonsThePendingCommand :
    { pending 0x4000000 with inputs := [.reset], waiting := [readOf 0x40] }.inputs = .reset :: [] := by decide

theorem witness_DecodeInvertsEncode : WellFormed (.absorb 8) ∧ decode (encode (.absorb 8)) = .command (.absorb 8) := by decide

theorem witness_DecoderFollowsLegality_illegal : ¬ legal 0x0000000002000009 := by unfold legal; decide

theorem witness_DecoderFollowsLegality_legal :
    legal 0x0000000000000000 ∧ legal 0x0000000001000000 ∧ legal 0x0000000002000008 ∧ legal 0x00000000030000FF ∧
      legal 0x0000000004000000 := by unfold legal; decide

theorem witness_DecoderFollowsLegality_opcodes :
    (0x0000000002000008 : Word).toNat / 2 ^ 24 % 2 ^ 8 = 2 ∧ (0x0000000004000000 : Word).toNat / 2 ^ 24 % 2 ^ 8 = 4 := by
  decide

theorem witness_OpcodeRowsAgreeWithTheDecoder :
    ∃ r ∈ opcodeRows, ∃ r' ∈ opcodeRows, r.matchesWord 0x2000008 = true ∧ r'.matchesWord 0x2000008 = true := by decide

theorem witness_AssemblerEncodesOnlyLegalWords :
    assemble (.absorb 8) = some 0x2000008 ∧ assemble (.absorb 9) = none ∧ assemble (.absorbB 255) = some 0x30000FF ∧
      assemble (.absorbB 256) = none ∧ 'a'.toNat ≤ 127 ∧ 127 < 'é'.toNat := by decide

/-- A pending command with the engine next. -/
theorem runs_pending {v : Word} {i : Instr} (h : decode v = .command i) : Runs i (pending v) :=
  ⟨⟨rfl, .inr ⟨[], rfl⟩⟩, v, rfl, h⟩

theorem witness_StepRunsTheDecodedCommand :
    Runs (.absorbB 0x80) (pending 0x3000080) ∧
      ∃ t, exec (.absorbB 0x80) ((pending 0x3000080).withInputs (pending 0x3000080).inputs.tail) = .next t :=
  ⟨runs_pending (by decide), _, rfl⟩

theorem witness_StepRunsTheDecodedCommand_illegal :
    EngineIsNext (pending 0x5000000) ∧ (pending 0x5000000).pend = some 0x5000000 ∧
      decode 0x5000000 = .illegal .reservedOpcode ∧
      ∃ t, execIllegal ((pending 0x5000000).withInputs (pending 0x5000000).inputs.tail) = .next t :=
  ⟨⟨rfl, .inr ⟨[], rfl⟩⟩, rfl, by decide, _, rfl⟩

theorem witness_StepRunsTheDecodedCommand_word : decodeTableWord 64 0x4000000 = some .final := by decide

theorem witness_IllegalWordOnlyRecordsTheError : ¬ legal 0x0000000005000000 ∧ ¬ legal 0x0000000000000001 := by
  unfold legal; decide

theorem witness_IdleEngineKeepsItsState :
    State.reset.busy = false ∧ State.reset.inputs = [] ∧ State.reset.waiting = [] ∧ State.reset.pend = none := by decide

theorem witness_EveryStepAnswers : PendMatchesBusy State.reset ∧ PendMatchesBusy (pending 0x5000000) := by
  unfold PendMatchesBusy; decide

theorem witness_InitWritesTheListedElements : ∃ t, exec .init (engine 5 40 true) = .next t := ⟨_, rfl⟩

/-- The edges of AbsorbBytes: 127 bytes, 128 bytes; a finalized engine; a length one byte short of the limit, and at it. -/
theorem witness_AbsorbTakesTheFirstLanes :
    (8 : BitVec 4).toNat ≤ 8 ∧
      ((engine 119 952 false).final = false ∧ (engine 119 952 false).len.toNat + 8 * 8 < 2 ^ 128 ∧
        (engine 119 952 false).bufLen.toNat + 8 < 128) ∧
      ((engine 120 960 false).final = false ∧ 128 ≤ (engine 120 960 false).bufLen.toNat + 8) ∧
      (engine 0 0 true).final = true ∧
      ((engine 0 0xFFFFFFFFFFFFFFFFFFFFFFFFFFFFFFC0 false).len.toNat + 8 * 7 < 2 ^ 128 ∧
        2 ^ 128 ≤ (engine 0 0xFFFFFFFFFFFFFFFFFFFFFFFFFFFFFFC0 false).len.toNat + 8 * 8) := by decide

theorem witness_AbsorbByteTakesTheImmediate :
    ((engine 126 1008 false).final = false ∧ (engine 126 1008 false).len.toNat + 8 < 2 ^ 128 ∧
        (engine 126 1008 false).bufLen.toNat < 127) ∧
      ((engine 127 1016 false).final = false ∧ (engine 127 1016 false).bufLen.toNat = 127) ∧
      (engine 0 0 true).final = true ∧
      ((engine 0 0xFFFFFFFFFFFFFFFFFFFFFFFFFFFFFFF8 false).final = false ∧
        2 ^ 128 ≤ (engine 0 0xFFFFFFFFFFFFFFFFFFFFFFFFFFFFFFF8 false).len.toNat + 8) ∧
      ∃ t, exec (.absorbB 0x80) State.reset = .next t := ⟨by decide, by decide, rfl, by decide, _, rfl⟩

theorem witness_FinalPadsAndLatches :
    (engine 0 0 true).final = true ∧ (engine 111 888 false).final = false ∧ (engine 111 888 false).bufLen.toNat ≤ 111 ∧
      (engine 112 896 false).final = false ∧ 112 ≤ (engine 112 896 false).bufLen.toNat := by decide

theorem witness_InvalidStateIsRaisedAfterFinal :
    (engine 0 0 true).final = true ∧ decode 0x2000000 = .command (.absorb 0) ∧ decode 0x3000061 = .command (.absorbB 0x61) ∧
      decode 0x1000000 = .command .init ∧ decode 0 = .command .nop ∧ decode 0x4000000 = .command .final := by decide

theorem witness_InvalidStateIsRaisedAfterFinal_others :
    ¬ legal 0x0000000002000009 ∧ (engine 0 0 false).final = false ∧ decode 0x2000000 = .command (.absorb 0) ∧
      decode 0x3000061 = .command (.absorbB 0x61) := by unfold legal; decide

theorem witness_LengthOverflowAbsorbsNothing :
    (engine 0 0xFFFFFFFFFFFFFFFFFFFFFFFFFFFFFFF8 false).final = false ∧
      decode 0x2000001 = .command (.absorb 1) ∧ 1 = (1 : BitVec 4).toNat ∧ decode 0x3000061 = .command (.absorbB 0x61) ∧
      2 ^ 128 ≤ (engine 0 0xFFFFFFFFFFFFFFFFFFFFFFFFFFFFFFF8 false).len.toNat + 8 * 1 := by decide

theorem witness_AbsorbAboveEightIsIllegal : 8 < (9 : BitVec 4).toNat ∧ 8 < (15 : BitVec 4).toNat := by decide

theorem witness_CommandsLeaveThePortSideAlone : ∃ t, exec (.absorbB 0x80) (engine 5 40 false) = .next t := ⟨_, rfl⟩

theorem witness_BufferFrame_absorb :
    (∃ t, exec (.absorb 8) (engine 124 992 false) = .next t) ∧ (8 : BitVec 4).toNat ≤ 8 ∧
      (engine 124 992 false).final = false ∧ (engine 124 992 false).len.toNat + 8 * 8 < 2 ^ 128 ∧
      ∀ i : Nat, i < 8 → ((engine 124 992 false).bufLen.toNat + i) % 128 ≠ (4 : Fin 128).val :=
  ⟨⟨_, rfl⟩, by decide, rfl, by decide, by decide⟩

theorem witness_BufferFrame_others :
    (∃ t, exec (.absorbB 0x80) (engine 127 1016 false) = .next t) ∧
      (engine 127 1016 false).bufLen.toNat ≠ (0 : Fin 128).val ∧ (engine 127 1016 false).final = false ∧
      (engine 127 1016 false).len.toNat + 8 < 2 ^ 128 ∧ (∃ t, exec .nop State.reset = .next t) ∧
      (∃ t, exec .init State.reset = .next t) ∧ (engine 0 0 true).final = true ∧
      ∃ t, exec .final (engine 0 0 true) = .next t :=
  ⟨⟨_, rfl⟩, by decide, rfl, by decide, ⟨_, rfl⟩, ⟨_, rfl⟩, rfl, _, rfl⟩

theorem witness_BitwisePrimitivesBitByBit : 1 ≤ 63 ∧ 63 ≤ 63 ∧ 63 < 64 ∧ 1 ≤ 1 ∧ 0 < 64 := by decide

/-- K[t] + W[t] added a round early: a tree of another shape and order. -/
theorem witness_RoundIsAnyAdderTree (h sigma choice k w : Word) :
    (AdderTree.add (.add (.operand k) (.operand w)) (.add (.operand h) (.add (.operand sigma) (.operand choice)))).operands.Perm
      [h, sigma, choice, k, w] := by
  change (([k, w] ++ [h, sigma, choice]).Perm ([h, sigma, choice] ++ [k, w]))
  exact List.perm_append_comm

theorem witness_Absorbed_empty : Absorbed [] State.reset := by unfold Absorbed; exact ⟨rfl, rfl, rfl, rfl, fun i h => by simp at h⟩

theorem witness_AbsorbExtendsTheMessage :
    Absorbed [] State.reset ∧ (8 : BitVec 4).toNat ≤ 8 ∧ 8 * (([] : List Byte).length + (8 : BitVec 4).toNat) < 2 ^ 128 :=
  ⟨witness_Absorbed_empty, by decide, by decide⟩

theorem witness_AbsorbExtendsTheMessage_byte :
    Absorbed [] State.reset ∧ 8 * (([] : List Byte).length + 1) < 2 ^ 128 := ⟨witness_Absorbed_empty, by decide⟩

theorem witness_FinalLatchesTheDigest : Absorbed [] State.reset := witness_Absorbed_empty

/-- Two splits of the same three bytes (95_test_vectors.md P1 and P5). -/
theorem witness_ChunkInvariance :
    ([[0x61, 0x62, 0x63]] : List (List Byte)).flatten = [[0x61], [0x62], [0x63]].flatten ∧ State.reset.final = false ∧
      State.reset.len.toNat + 8 * ([[0x61, 0x62, 0x63]] : List (List Byte)).flatten.length < 2 ^ 128 := by decide

theorem witness_PaddedLengthIsLeast : 128 % 128 = 0 ∧ (List.replicate 111 (0 : Byte)).length + 17 ≤ 128 := by decide

theorem witness_PortDecidesInOrder :
    (⟨0, .read, 0, 32, 0⟩ : Access).width ≠ 64 ∧ (readOf 0x7F).off.toNat % 8 ≠ 0 ∧
      (readOf 0x78).off.toNat ∈ [0x28, 0x30, 0x38, 0x70, 0x78] ∧ (readOf 0x00).off.toNat = 0x00 ∧
      (writeOf 0x68 0).off.toNat ∈ [0x10, 0x18, 0x20, 0x40, 0x48, 0x50, 0x58, 0x60, 0x68] ∧
      (writeOf 0x08 0).off.toNat ∈ [0x00, 0x08] ∧
      (readOf 0x68).off.toNat ∈ [0x08, 0x18, 0x20, 0x40, 0x48, 0x50, 0x58, 0x60, 0x68] ∧
      (readOf 0x10).off.toNat = 0x10 ∧ (readOf 0x10).width = 64 ∧ (readOf 0x10).dir = .read ∧
      (writeOf 0x08 0).dir = .write := by decide

theorem witness_ServedAccessIsAnswered_read :
    (serving (readOf 0x10) true).inputs = .serve 0 :: [] ∧ (serving (readOf 0x10) true).oldestOf 0 = some (readOf 0x10) ∧
      ∃ v, portAccess (readOf 0x10) ((serving (readOf 0x10) true).withInputs []) = .readDone v :=
  ⟨by decide, by decide, _, rfl⟩

theorem witness_ServedAccessIsAnswered_write :
    (serving (writeOf 0x00 0) false).inputs = .serve 0 :: [] ∧
      (serving (writeOf 0x00 0) false).oldestOf 0 = some (writeOf 0x00 0) ∧
      ∃ t, portAccess (writeOf 0x00 0) ((serving (writeOf 0x00 0) false).withInputs []) = .writeDone t :=
  ⟨by decide, by decide, _, rfl⟩

/-- One access for each reason, each with its premises met in a busy engine. -/
theorem witness_BusErrorsChangeNothing :
    ((serving ⟨0, .read, 0x10, 32, 0⟩ true).oldestOf 0 = some ⟨0, .read, 0x10, 32, 0⟩ ∧
        (⟨0, .read, 0x10, 32, 0⟩ : Access).width ≠ 64) ∧
      ((serving (readOf 0x7F) true).oldestOf 0 = some (readOf 0x7F) ∧ (readOf 0x7F).off.toNat % 8 ≠ 0) ∧
      ((serving (readOf 0x28) true).oldestOf 0 = some (readOf 0x28) ∧
        (readOf 0x28).off.toNat ∈ [0x28, 0x30, 0x38, 0x70, 0x78]) ∧
      ((serving (readOf 0x00) true).oldestOf 0 = some (readOf 0x00) ∧ (readOf 0x00).off.toNat = 0x00) ∧
      ((serving (writeOf 0x10 1) true).oldestOf 0 = some (writeOf 0x10 1) ∧
        (writeOf 0x10 1).off.toNat ∈ [0x10, 0x18, 0x20, 0x40, 0x48, 0x50, 0x58, 0x60, 0x68]) ∧
      (serving (writeOf 0x10 1) true).inputs = .serve 0 :: [] := by decide

theorem witness_HeldAccessesWaitWithoutEffect :
    (serving (writeOf 0x00 1) true).busy = true ∧ (serving (writeOf 0x00 1) true).inputs = .serve 0 :: [] ∧
      (serving (writeOf 0x00 1) true).oldestOf 0 = some (writeOf 0x00 1) ∧ (writeOf 0x00 1).width = 64 ∧
      (serving (readOf 0x68) true).oldestOf 0 = some (readOf 0x68) ∧
      (serving (readOf 0x10) true).oldestOf 0 = some (readOf 0x10) := by decide

theorem witness_PortReadsReturnTheRegister :
    (readOf 0x10).width = 64 ∧ (readOf 0x10).dir = .read ∧ (pending 0).busy = true ∧ (readOf 0x10).off.toNat = 0x10 ∧
      State.reset.busy = false ∧ (readOf 0x08).off.toNat = 0x08 ∧ (readOf 0x68).off.toNat = 0x68 := by decide

theorem witness_PortWritesStoreTheValue :
    (writeOf 0x00 5).width = 64 ∧ (writeOf 0x00 5).dir = .write ∧ State.reset.busy = false ∧
      (writeOf 0x00 5).off.toNat = 0x00 ∧ (writeOf 0x08 5).off.toNat = 0x08 ∧ (writeOf 0x10 5).off.toNat ≠ 0x08 := by decide

/-- A step for a host: served, and issuing. -/
theorem witness_EachHostIsServedInOrder :
    (∃ t, step (serving (readOf 0x10) false) = .next t) ∧
      ∃ t, step { State.reset with inputs := [.issue (readOf 0x10)] } = .next t := ⟨⟨_, rfl⟩, _, rfl⟩

theorem witness_FirstErrorStays :
    (∃ t, step { pending 0x5000000 with err := 1 } = .next t) ∧ { pending 0x5000000 with err := 1 }.err ≠ 0 :=
  ⟨⟨_, rfl⟩, by decide⟩

/-- init on hash registers that are not the IV, a latch that is not zero, a finalized engine and a length. -/
def stale : State :=
  { pending 0x1000000 with h := ⟨1, 2, 3, 4, 5, 6, 7, 8⟩, digest := ⟨1, 2, 3, 4, 5, 6⟩, final := true, len := 8 }

theorem witness_HashRegistersHaveFewWriters : seen (fun t => decide (t.h ≠ stale.h)) (step stale) = some true := by decide

theorem witness_DigestHasThreeWriters : seen (fun t => decide (t.digest ≠ stale.digest)) (step stale) = some true := by decide

theorem witness_DigestHasThreeWriters_final : Runs .final (pending 0x4000000) ∧ (pending 0x4000000).final = false :=
  ⟨runs_pending (by decide), rfl⟩

theorem witness_PhaseHasThreeWriters : seen (fun t => decide (t.final ≠ stale.final)) (step stale) = some true := by decide

theorem witness_LengthNeverWraps :
    seen (fun t => decide (t.len.toNat < stale.len.toNat)) (step stale) = some true := by decide

theorem witness_TakesReset : TakesReset { stale with inputs := [.reset] } := ⟨[], rfl⟩

theorem witness_DataInHasTwoWriters :
    seen (fun t => decide (t.dataIn ≠ (serving (writeOf 0x08 5) false).dataIn)) (step (serving (writeOf 0x08 5) false)) =
      some true := by decide

theorem witness_PendingCommandIsInvisible :
    (serving (readOf 0x10) true).busy = true ∧ seen State.busy (step (serving (readOf 0x10) true)) = some true := by decide

theorem witness_InvariantIsKeptByEveryStep :
    EngineInv (pending 0x3000080) ∧ ∃ t, step (pending 0x3000080) = .next t :=
  ⟨⟨by unfold PendMatchesBusy; decide, by unfold ErrLegal; decide, by unfold LenWholeBytes; decide,
    fun _ => ⟨by decide, rfl⟩, fun h => by cases h⟩, _, rfl⟩

theorem witness_BusyAlwaysFalls : PendMatchesBusy (pending 0x2000000) := by unfold PendMatchesBusy; decide

theorem witness_HeldAccessesAreAnswered :
    PendMatchesBusy { serving (readOf 0x40) true with inputs := [] } ∧
      { serving (readOf 0x40) true with inputs := [] }.inputs = [] := by unfold PendMatchesBusy; decide

/-- Two states that differ in BUF from BUF_LEN on and in the round counter. -/
theorem witness_HiddenStateIsNeverRead :
    SameButHidden (pending 0x3000080)
        { pending 0x3000080 with buf := Vector.replicate 128 0xFF, dp := { Datapath.atReset with t := 79 } } ∧
      ∃ t, step (pending 0x3000080) = .next t :=
  ⟨⟨rfl, rfl, rfl, rfl, rfl, rfl, rfl, rfl, rfl, ⟨rfl, rfl, rfl⟩, fun _ h => absurd h (Nat.not_lt_zero _)⟩, _, rfl⟩

/-- A turn of engine 1 on a platform of two. -/
theorem witness_EnginesAreIndependent :
    ∃ q, (⟨[State.reset, State.reset], [.turn 1]⟩ : Platform).step = .next q ∧
      (⟨[State.reset, State.reset], [.turn 1]⟩ : Platform).target (.turn 1) ≠ some 0 := ⟨_, rfl, by decide⟩

/-- An access to the last byte of the window of engine 1, wherever it lies. -/
theorem witness_EnginesAreIndependent_inside :
    (⟨[State.reset, State.reset], [.bus ⟨0, .read, Config.engineBase 1 + 0x7F, 64, 0⟩]⟩ : Platform).engines[1]? =
        some State.reset ∧
      Config.engineBase 1 ≤ Config.engineBase 1 + 0x7F ∧ Config.engineBase 1 + 0x7F < Config.engineBase 1 + 0x80 :=
  ⟨rfl, by omega, by omega⟩

/-- No event left, and the second engine has a command pending. -/
theorem witness_EnginesAreIndependent_settle :
    ∃ q, (⟨[State.reset, pending 0x3000080], []⟩ : Platform).step = .next q ∧
      (q.engines[1]?.map statusWord) = some 0x0100 := ⟨_, rfl, by decide⟩

/-- An address above both windows of a platform of two, wherever they lie. -/
theorem witness_EnginesAreIndependent_outside :
    ∀ k : Nat, k < [State.reset, State.reset].length →
      inWindow k (Config.engineBase 0 + Config.engineBase 1 + 0x80) = false := by
  intro k h
  have h2 : k < 2 := h
  rcases (by omega : k = 0 ∨ k = 1) with rfl | rfl <;> simp [inWindow]

/-! ### The host's programs: 00_scope.md R10, 30_encoding.md R88 to R90, 41_commands.md R139 -/

theorem test_assemble_quoted : assemble (.absorbBQuoted 'a') = some 0x0000000003000061 := by decide

theorem test_absorbQ_range : absorbQ (.imm 0x6162630000000000) 9 = none := by decide

/-- `absorb.q r3, 8`: the value from a register (log entry 15). -/
theorem test_absorbQ_register :
    absorbQ (.reg 2) 8 = some [.wr 0x08 (.reg 2), .wr 0x00 (.imm 0x0000000002000008)] := by decide

/-- 95_test_vectors.md P1: update of "abc" is one absorb.q of three bytes. -/
theorem test_update_abc :
    update [0x61, 0x62, 0x63] = some [.wr 0x08 (.imm 0x6162630000000000), .wr 0x00 (.imm 0x0000000002000003)] := by decide

/-- "abc" in a little-endian host's memory: as the host loads it, and as DATA_IN of 95_test_vectors.md P1. -/
theorem test_dataInOf_little_endian :
    loadWord littleEndianHost #v[0x61, 0x62, 0x63, 0, 0, 0, 0, 0] = 0x0000000000636261 ∧
      loadWord bigEndianHost #v[0x61, 0x62, 0x63, 0, 0, 0, 0, 0] = 0x6162630000000000 ∧
      dataInOf littleEndianHost #v[0x61, 0x62, 0x63, 0, 0, 0, 0, 0] = 0x6162630000000000 := by decide

/-- DIGEST0 of "abc" (95_test_vectors.md V2) as a little-endian host keeps the word and as its software splits it. -/
theorem test_splitWord_little_endian :
    storeWord littleEndianHost 0xcb00753f45a35e8b = #v[0x8b, 0x5e, 0xa3, 0x45, 0x3f, 0x75, 0x00, 0xcb] ∧
      splitWord littleEndianHost 0xcb00753f45a35e8b = #v[0xcb, 0x00, 0x75, 0x3f, 0x45, 0xa3, 0x5e, 0x8b] := by decide

/-- 41_commands.md R139: STATUS of 95_test_vectors.md T5 rows 18 and 20. -/
theorem test_ardReport : ardReport 0x0012 = .invalidState ∧ ardReport 0x0022 = .done := by decide

theorem witness_PseudoInstructionsExpand : 8 ≤ 8 ∧ 8 < 9 := by decide

/-- Each thing the port can answer to a host: a write performed, held, refused; a read performed, held, refused. -/
theorem witness_HostInstructionsAct_port :
    (∃ t, portAccess ⟨0, .write, 0x00, 64, 5⟩ State.reset = .writeDone t) ∧
      portAccess ⟨0, .write, 0x08, 64, 5⟩ (pending 0) = .hold ∧
      portAccess ⟨0, .write, 0x10, 64, 5⟩ (pending 0) = .busError .access ∧
      (∃ v, portAccess ⟨0, .read, 0x10, 64, 0⟩ (pending 0) = .readDone v) ∧
      portAccess ⟨0, .read, 0x68, 64, 0⟩ (pending 0) = .hold ∧
      portAccess ⟨0, .read, 0x78, 64, 0⟩ State.reset = .busError .unmapped :=
  ⟨⟨_, rfl⟩, by decide, by decide, ⟨_, rfl⟩, by decide, by decide⟩

/-- A host's turn, a stopped host's turn, an engine's turn, and a pending command with no turn chosen. -/
theorem witness_HostInstructionsAct_turns :
    ((⟨HostState.start [.halt], pending 0, [.host]⟩ : Hosted).turns.head? = some .host ∧
        (HostState.start [.halt]).status = .running ∧ (HostState.start [.halt]).program[0]? = some .halt) ∧
      ((Hosted.launch [.halt] State.reset).turns = [] ∧ (Hosted.launch [.halt] State.reset).engine.busy = false) ∧
      ((HostState.start []).stop .halted).status ≠ .running ∧
      ((⟨HostState.start [], pending 0, [.engine]⟩ : Hosted).turns.head? = some .engine ∧
        ∃ t, engineTurn (pending 0) = .next t) ∧
      (Hosted.launch [.halt] (pending 0)).engine.busy = true :=
  ⟨by decide, by decide, by decide, ⟨by decide, _, rfl⟩, by decide⟩

theorem witness_ArdOperationsReturnTheirResults :
    State.reset.busy = false ∧ Absorbed [] State.reset ∧
      8 * (([] : List Byte).length + [(0x61 : Byte), 0x62, 0x63].length) < 2 ^ 128 ∧
      ((engine 0 0 true).busy = false ∧ (engine 0 0 true).final = true ∧ (engine 0 0 true).err = 0 ∧
        [(0x61 : Byte)] ≠ []) :=
  ⟨rfl, witness_Absorbed_empty, by decide, by decide⟩

end Sys2Proof.Tests
end

section
/-! SUPPORT. What one instruction of the host does, and whose turn it is; from these, the statement O59. -/

namespace Sys2Proof.Machine

/-! ### One instruction of the host (00_scope.md R10) -/

@[simp] theorem hostExec_li (act : BusErrorAction) (x : HostState) (s : State) (rd : HostReg) (imm : Word) :
    hostExec act (.li rd imm) x s = ((x.setReg rd imm).advance, s) := rfl

@[simp] theorem hostExec_andi (act : BusErrorAction) (x : HostState) (s : State) (rd rs : HostReg) (imm : Word) :
    hostExec act (.andi rd rs imm) x s = ((x.setReg rd (x.regs[rs] &&& imm)).advance, s) := rfl

@[simp] theorem hostExec_subi (act : BusErrorAction) (x : HostState) (s : State) (rd rs : HostReg) (imm : Word) :
    hostExec act (.subi rd rs imm) x s = ((x.setReg rd (x.regs[rs] - imm)).advance, s) := rfl

@[simp] theorem hostExec_halt (act : BusErrorAction) (x : HostState) (s : State) :
    hostExec act .halt x s = (x.stop .halted, s) := rfl

@[simp] theorem hostExec_wr (act : BusErrorAction) (x : HostState) (s : State) (off : BitVec 7) (src : WriteSource) :
    hostExec act (.wr off src) x s = hostWrite act x s off (x.source src) := rfl

@[simp] theorem hostExec_rd (act : BusErrorAction) (x : HostState) (s : State) (rd : HostReg) (off : BitVec 7) :
    hostExec act (.rd rd off) x s = hostRead act x s rd off := rfl

/-- A branch changes the place in the program and nothing else, taken or not. -/
theorem hostExec_bnez (act : BusErrorAction) (x : HostState) (s : State) (rs : HostReg) (l : Nat) :
    hostExec act (.bnez rs l) x s = ({ x with pc := if x.regs[rs] ≠ 0 then l else x.pc + 1 }, s) := by
  by_cases h : x.regs[rs] ≠ 0
  · rw [if_pos h]
    exact congrArg (·, s) (if_pos h)
  · rw [if_neg h]
    exact congrArg (·, s) (if_neg h)

/-- The value a `wr` writes is its immediate, or what its register holds. -/
theorem HostState.source_eq {x : HostState} {src : WriteSource} {v : Word}
    (h : src = .imm v ∨ ∃ rs, src = .reg rs ∧ v = x.regs[rs]) : x.source src = v := by
  obtain rfl | ⟨rs, rfl, rfl⟩ := h <;> rfl

/-! ### An access of the host, by what the port answers (20_memory.md R54, 60_exceptions.md R177) -/

section
variable {act : BusErrorAction} {x : HostState} {s : State} {off : BitVec 7} {v : Word} {rd : HostReg}

theorem hostWrite_done {t : State} (h : portAccess (hostAccess .write off v) s = .writeDone t) :
    hostWrite act x s off v = (x.advance, t) := by simp only [hostWrite, h]

theorem hostWrite_held (h : portAccess (hostAccess .write off v) s = .hold) :
    hostWrite act x s off v = (x, s) := by simp only [hostWrite, h]

theorem hostWrite_busError {r : BusError} (h : portAccess (hostAccess .write off v) s = .busError r) :
    hostWrite act x s off v = (x.meetBusError act r, s) := by simp only [hostWrite, h]

theorem hostRead_done (h : portAccess (hostAccess .read off 0) s = .readDone v) :
    hostRead act x s rd off = ((x.setReg rd v).advance, s) := by simp only [hostRead, h]

theorem hostRead_held (h : portAccess (hostAccess .read off 0) s = .hold) :
    hostRead act x s rd off = (x, s) := by simp only [hostRead, h]

theorem hostRead_busError {r : BusError} (h : portAccess (hostAccess .read off 0) s = .busError r) :
    hostRead act x s rd off = (x.meetBusError act r, s) := by simp only [hostRead, h]

end

/-! ### Whose turn it is (log entry 11) -/

/-- A running host's turn is the instruction at its place in the program. -/
theorem hostTurn_running {x : HostState} {i : HostInstr} (act : BusErrorAction) (s : State)
    (hr : x.status = .running) (hi : x.program[x.pc]? = some i) : hostTurn act x s = hostExec act i x s := by
  simp only [hostTurn, hr, hi]

theorem hostTurn_stopped {x : HostState} (act : BusErrorAction) (s : State) (h : x.status ≠ .running) :
    hostTurn act x s = (x, s) := by
  unfold hostTurn
  split
  · contradiction
  all_goals rfl

/-- The host acts where the turn is its own, or where no turn is chosen and no command pends. -/
theorem Hosted.step_host {m : Hosted} (act : BusErrorAction)
    (h : m.turns.head? = some .host ∨ (m.turns = [] ∧ m.engine.busy = false)) :
    m.step act = .next ((m.withTurns m.turns.tail).hostActs act) := by
  obtain ⟨x, s, turns⟩ := m
  obtain h | ⟨rfl, hb⟩ := h
  · obtain ⟨rest, rfl⟩ := List.head?_eq_some_iff.mp h
    rfl
  · exact if_neg (by simpa using hb)

/-- The engine acts where the turn is its own, or where no turn is chosen and a command pends (70_reset_and_hazards.md R199). -/
theorem Hosted.step_engine {m : Hosted} (act : BusErrorAction)
    (h : m.turns.head? = some .engine ∨ (m.turns = [] ∧ m.engine.busy = true)) :
    m.step act = (m.withTurns m.turns.tail).engineActs := by
  obtain ⟨x, s, turns⟩ := m
  obtain h | ⟨rfl, hb⟩ := h
  · obtain ⟨rest, rfl⟩ := List.head?_eq_some_iff.mp h
    rfl
  · exact if_pos hb

theorem Hosted.engineActs_next {m : Hosted} {t : State} (h : engineTurn m.engine = .next t) :
    m.engineActs = .next { m with engine := t } := by
  simp only [Hosted.engineActs, h, Hosted.withPair]

/-- Settles O59: each instruction by its own equation, an access by the port's answer, a step by whose turn it is. -/
theorem hostInstructionsAct : Obligations.HostInstructionsAct := by
  refine ⟨fun act x s => ⟨hostExec_li act x s, hostExec_andi act x s, hostExec_subi act x s,
    hostExec_bnez act x s, hostExec_halt act x s, fun off src v hv => ?wr, fun rd off => ?rd⟩,
    fun act m hturn => ⟨fun i hr hi => ?running, fun hstopped => ?stopped⟩, fun act m t hturn ht => ?engine⟩
  case wr =>
    rw [hostExec_wr, HostState.source_eq hv]
    exact ⟨fun t => hostWrite_done, hostWrite_held, fun r => hostWrite_busError⟩
  case rd => exact ⟨fun v => hostRead_done, hostRead_held, fun r => hostRead_busError⟩
  case running =>
    rw [Hosted.step_host act hturn, ← hostTurn_running act m.engine hr hi]
    rfl
  case stopped =>
    have hacts : (m.withTurns m.turns.tail).hostActs act = m.withTurns m.turns.tail :=
      congrArg (m.withTurns m.turns.tail).withPair (hostTurn_stopped act m.engine hstopped)
    rw [Hosted.step_host act hturn, hacts]
    rfl
  case engine =>
    rw [Hosted.step_engine act hturn]
    exact Hosted.engineActs_next ht

end Sys2Proof.Machine
end

section
/-! SUPPORT. What a step can do to the engine's own elements, leaving the port's side out, and the invariant under each of those
effects; from these, the statement O52. -/

namespace Sys2Proof.Machine

/-- The elements that only a command or a reset writes (10_state.md R21 to R25, R28) are the same; BUF, the datapath, DATA_IN, BUSY,
PEND and the queues are not spoken of. -/
structure KeepsEngine (s t : State) : Prop where
  h : t.h = s.h
  bufLen : t.bufLen = s.bufLen
  len : t.len = s.len
  final : t.final = s.final
  err : t.err = s.err
  digest : t.digest = s.digest

/-- Every event of a step but a command run, an illegal word and a reset keeps the engine, and keeps PEND and BUSY in agreement. -/
theorem step_engine_cases {s t : State} (h : step s = .next t) :
    (∃ i u, Runs i s ∧ exec i (s.withInputs s.inputs.tail) = .next u ∧ t = u.complete) ∨
    (t = ((s.withInputs s.inputs.tail).raiseError .illegalCmd).complete) ∨
    (TakesReset s ∧ ∃ rest, t = (s.withInputs rest).resetEngine) ∨
    (KeepsEngine s t ∧ (PendMatchesBusy s → PendMatchesBusy t)) := by
  rcases step_events h with hrun | ⟨_, hillegal⟩ | rfl | ⟨a, rest, _, rfl⟩ | ⟨a, r, _, rfl⟩ |
    ⟨a, _, _, _, _, _, rfl⟩ | ⟨a, _, _, _, _, _, rfl⟩ | ⟨rest, hi, rfl⟩
  case inl => exact .inl hrun
  case inr.inl => exact .inr (.inl hillegal)
  case inr.inr.inr.inr.inr.inr.inr => exact .inr (.inr (.inl ⟨⟨rest, hi⟩, rest, rfl⟩))
  case inr.inr.inr.inr.inr.inl => exact .inr (.inr (.inr ⟨⟨rfl, rfl, rfl, rfl, rfl, rfl⟩, fun _ => rfl⟩))
  all_goals exact .inr (.inr (.inr ⟨⟨rfl, rfl, rfl, rfl, rfl, rfl⟩, id⟩))

/-! ### The invariant under each effect -/

/-- The invariant speaks of the kept elements, and of PEND and BUSY. -/
theorem EngineInv.of_keepsEngine {s t : State} (hs : EngineInv s) (hk : KeepsEngine s t) (hp : PendMatchesBusy t) :
    EngineInv t := by
  obtain ⟨_, herr, hlen, habs, hfin⟩ := hs
  obtain ⟨h, bufLen, len, final, err, digest⟩ := hk
  refine ⟨hp, ?_, ?_, ?_, ?_⟩
  · rwa [ErrLegal, err]
  · rwa [LenWholeBytes, len]
  · rwa [AbsorbingShape, final, bufLen, len, digest]
  · rwa [FinalizedShape, final, bufLen, digest, h]

theorem EngineInv.withInputs {s : State} (hs : EngineInv s) (is : List Input) : EngineInv (s.withInputs is) :=
  hs.of_keepsEngine ⟨rfl, rfl, rfl, rfl, rfl, rfl⟩ hs.1

theorem EngineInv.complete {s : State} (hs : EngineInv s) : EngineInv s.complete :=
  hs.of_keepsEngine ⟨rfl, rfl, rfl, rfl, rfl, rfl⟩ rfl

/-- The invariant of an engine that has just absorbed nothing, whether by init or by reset. -/
theorem EngineInv.of_empty {t : State} (hp : PendMatchesBusy t) (herr : t.err = 0) (hlen : t.len = 0)
    (hbuf : t.bufLen = 0) (hfin : t.final = false) (hd : t.digest = DigestRegs.zero) : EngineInv t :=
  ⟨hp, by simp [ErrLegal, herr], by simp [LenWholeBytes, hlen], fun _ => by simp [hbuf, hlen, hd],
    fun h => by simp [hfin] at h⟩

theorem EngineInv.construct {s : State} (hs : EngineInv s) : EngineInv s.construct :=
  .of_empty hs.1 rfl rfl rfl rfl rfl

theorem engineInv_resetEngine (s : State) : EngineInv s.resetEngine :=
  .of_empty rfl rfl rfl rfl rfl rfl

theorem EngineError.code_le (e : EngineError) : e.code.toNat ≤ 3 := by cases e <;> decide

theorem EngineInv.raiseError {s : State} (hs : EngineInv s) (e : EngineError) : EngineInv (s.raiseError e) := by
  obtain ⟨hp, herr, hrest⟩ := hs
  refine ⟨hp, ?_, hrest⟩
  rw [ErrLegal, State.raiseError_err, recordError]
  split
  · exact e.code_le
  · exact herr

/-- Bytes absorbed advance BUF_LEN and LEN alike (41_commands.md R131); with FINAL = 0 the latch keeps its zeros. -/
theorem EngineInv.absorb {s : State} (hs : EngineInv s) {ms : List Byte} (hf : s.final = false)
    (hl : s.len.toNat + 8 * ms.length < 2 ^ 128) : EngineInv ((s.absorbLoop ms).addLen ms.length) := by
  obtain ⟨hp, herr, hlen, habs, _⟩ := hs
  obtain ⟨hbuf, hdigest⟩ := habs hf
  have hlen' : ((s.absorbLoop ms).addLen ms.length).len.toNat = s.len.toNat + 8 * ms.length := by
    rw [State.addLen_toNat (by simpa using hl), State.absorbLoop_len]
  refine ⟨by simpa [PendMatchesBusy] using hp, by simpa [ErrLegal] using herr, ?_, fun _ => ⟨?_, ?_⟩, fun h => ?_⟩
  · rw [LenWholeBytes] at hlen ⊢
    omega
  · rw [hlen', State.addLen_bufLen, State.absorbLoop_bufLen]
    omega
  · simpa using hdigest
  · simp [hf] at h

/-- Pad empties the buffer, and the latch is taken from H after it (41_commands.md R137). -/
theorem EngineInv.padLatch {s : State} (hs : EngineInv s) : EngineInv s.pad.latchDigest := by
  obtain ⟨hp, herr, hlen, _, _⟩ := hs
  exact ⟨by simpa [PendMatchesBusy] using hp, by simpa [ErrLegal] using herr, by simpa [LenWholeBytes] using hlen,
    fun h => by simp at h, fun _ => by simp⟩

/-- Every command keeps the invariant. -/
theorem EngineInv.exec {i : Instr} {s t : State} (hs : EngineInv s) (h : exec i s = .next t) : EngineInv t := by
  rcases exec_cases h with rfl | ⟨_, rfl⟩ | ⟨e, rfl, _⟩ | ⟨ms, hf, hl, rfl, _⟩ | ⟨_, _, rfl⟩
  · exact hs
  · exact hs.construct
  · exact hs.raiseError e
  · exact hs.absorb hf hl
  · exact hs.padLatch

/-- Settles O52: a command keeps the invariant and completes, an illegal word is an error entry, a reset establishes it, and every
other event keeps the elements it speaks of. -/
theorem invariantIsKeptByEveryStep : Obligations.InvariantIsKeptByEveryStep := by
  intro s t hs h
  rcases step_engine_cases h with ⟨i, u, _, hu, rfl⟩ | rfl | ⟨_, rest, rfl⟩ | ⟨hk, hp⟩
  · exact ((hs.withInputs _).exec hu).complete
  · exact ((hs.withInputs _).raiseError _).complete
  · exact engineInv_resetEngine _
  · exact hs.of_keepsEngine hk (hp hs.1)

end Sys2Proof.Machine
end

section
/-! SUPPORT. What the spec leaves unspecified, BUF from BUF_LEN on and the datapath, as a pair that an effect carries along or
overwrites; from these, the statement O56. -/

namespace Sys2Proof.Machine

/-- BUF and the datapath as given. -/
def State.withHidden (s : State) (b : Block) (d : Datapath) : State := { s with buf := b, dp := d }

/-- Two blocks agree below `n`. -/
def AgreeBelow (n : Nat) (x y : Block) : Prop := ∀ i : Fin 128, i.val < n → y[i] = x[i]

/-- Two states are the same but for what no rule reads exactly when the second is the first with another BUF, that agrees below
BUF_LEN, and another datapath. -/
theorem sameButHidden_iff (s s' : State) :
    SameButHidden s s' ↔ ∃ b d, s' = s.withHidden b d ∧ AgreeBelow s.bufLen.toNat s.buf b := by
  constructor
  · intro hs
    refine ⟨s'.buf, s'.dp, ?_, ?_⟩
    · cases s
      cases s'
      simp_all [SameButHidden, SameQueues, State.withHidden]
    · obtain ⟨_, _, _, _, _, _, _, _, _, _, hbuf⟩ := hs
      exact hbuf
  · rintro ⟨b, d, rfl, hb⟩
    exact ⟨rfl, rfl, rfl, rfl, rfl, rfl, rfl, rfl, rfl, ⟨rfl, rfl, rfl⟩, hb⟩

theorem SameButHidden.refl (s : State) : SameButHidden s s :=
  (sameButHidden_iff s s).mpr ⟨s.buf, s.dp, rfl, fun _ _ => rfl⟩

/-- An effect that carries BUF and the datapath along, and lets no byte of BUF into the buffered ones, keeps states alike. -/
theorem SameButHidden.map {f : State → State} (hf : ∀ s b d, f (s.withHidden b d) = (f s).withHidden b d)
    (hl : ∀ s, (f s).bufLen.toNat ≤ s.bufLen.toNat) {s s' : State} (hs : SameButHidden s s') :
    SameButHidden (f s) (f s') := by
  obtain ⟨b, d, rfl, hb⟩ := (sameButHidden_iff s s').mp hs
  have hself : f s = (f s).withHidden s.buf s.dp := hf s s.buf s.dp
  have hbuf : (f s).buf = s.buf := by rw [hself]; rfl
  refine (sameButHidden_iff _ _).mpr ⟨b, d, hf s b d, fun i hi => ?_⟩
  rw [hbuf]
  exact hb i (hi.trans_le (hl s))

/-! ### The effects that carry the hidden elements along -/

section
variable {s s' : State}

theorem SameButHidden.withInputs (hs : SameButHidden s s') (is : List Input) :
    SameButHidden (s.withInputs is) (s'.withInputs is) :=
  hs.map (f := fun s => s.withInputs is) (fun _ _ _ => rfl) (fun _ => Nat.le_refl _)

theorem SameButHidden.issue (hs : SameButHidden s s') (a : Access) : SameButHidden (s.issue a) (s'.issue a) :=
  hs.map (f := fun s => s.issue a) (fun _ _ _ => rfl) (fun _ => Nat.le_refl _)

theorem SameButHidden.complete (hs : SameButHidden s s') : SameButHidden s.complete s'.complete :=
  hs.map (f := State.complete) (fun _ _ _ => rfl) (fun _ => Nat.le_refl _)

theorem SameButHidden.raiseError (hs : SameButHidden s s') (e : EngineError) :
    SameButHidden (s.raiseError e) (s'.raiseError e) :=
  hs.map (f := fun s => s.raiseError e) (fun _ _ _ => rfl) (fun _ => Nat.le_refl _)

theorem SameButHidden.addLen (hs : SameButHidden s s') (n : Nat) : SameButHidden (s.addLen n) (s'.addLen n) :=
  hs.map (f := fun s => s.addLen n) (fun _ _ _ => rfl) (fun _ => Nat.le_refl _)

theorem SameButHidden.construct (hs : SameButHidden s s') : SameButHidden s.construct s'.construct :=
  hs.map (f := State.construct) (fun _ _ _ => rfl) (fun _ => Nat.zero_le _)

/-- Reset gives BUF and the datapath values of its own: what they held is lost. -/
theorem SameButHidden.resetEngine (hs : SameButHidden s s') : SameButHidden s.resetEngine s'.resetEngine := by
  obtain ⟨b, d, rfl, _⟩ := (sameButHidden_iff s s').mp hs
  exact .refl s.resetEngine

end

/-! ### The port reads neither (20_memory.md R56) -/

/-- A performed write carries BUF and the datapath along, every other result holds neither. -/
def PortResult.withHidden (r : PortResult) (b : Block) (d : Datapath) : PortResult :=
  match r with
  | .busError reason => .busError reason
  | .hold => .hold
  | .readDone v => .readDone v
  | .writeDone s => .writeDone (s.withHidden b d)

theorem performAccess_withHidden (r : Reg) (a : Access) (s : State) (b : Block) (d : Datapath) :
    performAccess r a (s.withHidden b d) = (performAccess r a s).withHidden b d := by
  unfold performAccess
  cases a.dir <;> cases r <;> rfl

theorem portAccess_withHidden (a : Access) (s : State) (b : Block) (d : Datapath) :
    portAccess a (s.withHidden b d) = (portAccess a s).withHidden b d := by
  have hbusy : (s.withHidden b d).busy = s.busy := rfl
  unfold portAccess
  rw [hbusy]
  split
  · rfl
  · split
    · rfl
    · split
      · rfl
      · split
        · rfl
        · split
          · rfl
          · exact performAccess_withHidden _ a s b d

theorem State.serve_withHidden (s : State) (host : Nat) (b : Block) (d : Datapath) :
    (s.withHidden b d).serve host = (s.serve host).withHidden b d := by
  have hold : (s.withHidden b d).oldestOf host = s.oldestOf host := rfl
  unfold State.serve
  rw [hold]
  cases s.oldestOf host with
  | none => rfl
  | some a =>
    dsimp only
    rw [portAccess_withHidden]
    cases portAccess a s <;> rfl

theorem State.serve_bufLen (s : State) (host : Nat) : (s.serve host).bufLen = s.bufLen := by
  rcases serve_cases s host with h | ⟨_, _, _, h⟩ | ⟨_, _, _, _, _, _, h⟩ | ⟨_, _, _, _, _, _, h⟩ <;> rw [h] <;> rfl

theorem SameButHidden.serve {s s' : State} (hs : SameButHidden s s') (host : Nat) :
    SameButHidden (s.serve host) (s'.serve host) :=
  hs.map (f := fun s => s.serve host) (fun s => s.serve_withHidden host) (fun s => by rw [s.serve_bufLen])

/-! ### The bytes a compression reads are those below BUF_LEN and those just written -/

theorem AgreeBelow.eq {b c : Block} (h : AgreeBelow 128 b c) : c = b :=
  Vector.ext fun i hi => h ⟨i, hi⟩ hi

theorem AgreeBelow.set {n : Nat} {b c : Block} (h : AgreeBelow n b c) (m : Byte) (hn : n < 128) :
    AgreeBelow (n + 1) (b.set n m) (c.set n m) := by
  intro i hi
  simp only [Fin.getElem_fin, Vector.getElem_set]
  split
  · rfl
  · exact h i (by omega)

/-- Zeros from `n` on leave nothing of the bytes there. -/
theorem AgreeBelow.fillZero {n : Nat} {b c : Block} (h : AgreeBelow n b c) (hi : Nat) :
    AgreeBelow hi (fillZero n hi b) (fillZero n hi c) := by
  intro i hlt
  simp only [Fin.getElem_fin, fillZero_get]
  split
  · rfl
  · exact h i (by omega)

/-- The length field takes the place of the last 16 bytes. -/
theorem AgreeBelow.storeLength {b c : Block} (h : AgreeBelow 112 b c) (len : BitVec 128) :
    storeLength len c = storeLength len b := by
  refine Vector.ext fun i hi => ?_
  rw [storeLength_get, storeLength_get]
  split
  · rfl
  · exact h ⟨i, hi⟩ (by dsimp only; omega)

/-- A compression reads no datapath: its run loads one (40_compression.md R113). -/
theorem State.compressBuf_withHidden (s : State) (d : Datapath) : (s.withHidden s.buf d).compressBuf = s.compressBuf := rfl

/-- One byte absorbed: buffered, or the last of a block that is then the same in both states. -/
theorem SameButHidden.absorbByte {s s' : State} (hs : SameButHidden s s') (m : Byte) :
    SameButHidden (s.absorbByte m) (s'.absorbByte m) := by
  obtain ⟨b, d, rfl, hb⟩ := (sameButHidden_iff s s').mp hs
  have hput := hb.set m s.bufLen.isLt
  by_cases hfull : s.bufLen.toNat + 1 = 128
  · have hblock : (s.withHidden b d).putByte m = (s.putByte m).withHidden (s.putByte m).buf d := by
      rw [hfull] at hput
      exact congrArg (fun c => s.withHidden c d) hput.eq
    rw [State.absorbByte_full m hfull, State.absorbByte_full (s := s.withHidden b d) m hfull, hblock,
      State.compressBuf_withHidden]
    exact .refl _
  · rw [State.absorbByte_room m hfull, State.absorbByte_room (s := s.withHidden b d) m hfull]
    refine (sameButHidden_iff _ _).mpr ⟨b.set s.bufLen.toNat m, d, rfl, fun i hi => hput i ?_⟩
    rw [State.withBufLen_bufLen, BitVec.toNat_add] at hi
    exact hi.trans_le (Nat.mod_le _ _)

theorem SameButHidden.absorbLoop (ms : List Byte) :
    ∀ {s s' : State}, SameButHidden s s' → SameButHidden (s.absorbLoop ms) (s'.absorbLoop ms) := by
  induction ms with
  | nil => exact id
  | cons m ms ih => exact fun hs => ih (hs.absorbByte m)

theorem SameButHidden.absorbBytes {s s' : State} (hs : SameButHidden s s') (ms : List Byte) :
    SameButHidden (s.absorbBytes ms) (s'.absorbBytes ms) := by
  have ⟨_, _, hlen, hfinal, _⟩ := hs
  rcases State.absorbBytes_cases s ms with ⟨hf, h⟩ | ⟨hf, hl, h⟩ | ⟨hf, hl, h⟩
  · rw [h, State.absorbBytes_finalized ms (hfinal.trans hf)]
    exact hs.raiseError _
  · rw [h, State.absorbBytes_overflow (hfinal.trans hf) (hlen ▸ hl)]
    exact hs.raiseError _
  · rw [h, State.absorbBytes_accepted (hfinal.trans hf) (hlen ▸ hl)]
    exact (hs.absorbLoop ms).addLen _

/-- The second half of Pad depends on no byte from `k` on, and on no datapath. -/
theorem State.padLast_withHidden {s : State} {k : Nat} {b : Block} (d : Datapath) (hb : AgreeBelow k s.buf b) :
    (s.withHidden b d).padLast k = s.padLast k :=
  congrArg (fun c => ((s.withBuf c).compressBuf).withBufLen 0) ((hb.fillZero 112).storeLength s.len)

/-- Nor does the first half. -/
theorem State.padFirst_withHidden {s : State} {k : Nat} {b : Block} (d : Datapath) (hb : AgreeBelow k s.buf b) :
    (s.withHidden b d).padFirst k = s.padFirst k :=
  congrArg (fun c => (s.withBuf c).compressBuf) (hb.fillZero 128).eq

/-- Pad fills the whole buffer and compresses it: afterwards nothing is left of what was hidden. -/
theorem SameButHidden.pad_eq {s s' : State} (hs : SameButHidden s s') : s'.pad = s.pad := by
  obtain ⟨b, d, rfl, hb⟩ := (sameButHidden_iff s s').mp hs
  have hput : AgreeBelow (s.bufLen.toNat + 1) (s.putByte 0x80).buf (b.set s.bufLen.toNat 0x80) :=
    hb.set 0x80 s.bufLen.isLt
  have hlen : (s.withHidden b d).bufLen = s.bufLen := rfl
  have hcarry : (s.withHidden b d).putByte 0x80 = (s.putByte 0x80).withHidden (b.set s.bufLen.toNat 0x80) d := rfl
  by_cases h : s.bufLen.toNat ≤ 111
  · rw [State.pad_one h, State.pad_one (s := s.withHidden b d) h, hlen, hcarry, State.padLast_withHidden d hput]
  · rw [State.pad_two (Nat.lt_of_not_le h), State.pad_two (s := s.withHidden b d) (Nat.lt_of_not_le h), hlen, hcarry,
      State.padFirst_withHidden d hput]

/-! ### The commands, the engine step and the step -/

/-- Where the first outcome is a next state, so is the second, and the two are alike. -/
def AnswersAlike (o o' : Host.Outcome State Fault Refusal) : Prop :=
  ∀ t, o = .next t → ∃ t', o' = .next t' ∧ SameButHidden t t'

theorem SameButHidden.next {t t' : State} (h : SameButHidden t t') : AnswersAlike (.next t) (.next t') := by
  rintro _ ⟨⟩
  exact ⟨t', rfl, h⟩

section
variable {s s' : State}

theorem SameButHidden.exec (hs : SameButHidden s s') (i : Instr) : AnswersAlike (exec i s) (exec i s') := by
  have ⟨_, _, _, hfinal, _, _, _, hdata, _⟩ := hs
  cases i with
  | nop => exact hs.next
  | init => exact hs.construct.next
  | absorb n =>
    by_cases hn : n.toNat ≤ 8
    · rw [exec_absorb_legal hn, exec_absorb_legal hn, hdata]
      exact (hs.absorbBytes _).next
    · rw [exec_absorb_illegal hn, exec_absorb_illegal hn]
      exact (hs.raiseError _).next
  | absorbB m => exact (hs.absorbBytes [m]).next
  | final =>
    cases hf : s.final with
    | true =>
      rw [exec_final_again hf, exec_final_again (hfinal.trans hf)]
      exact hs.next
    | false =>
      rw [exec_final_first hf, exec_final_first (hfinal.trans hf), hs.pad_eq]
      exact (SameButHidden.refl _).next

theorem SameButHidden.performWord (hs : SameButHidden s s') (v : Word) :
    AnswersAlike (performWord v s) (performWord v s') := by
  unfold Machine.performWord
  split
  · exact hs.exec _
  · exact (hs.raiseError _).next

theorem AnswersAlike.complete {o o' : Host.Outcome State Fault Refusal} (h : AnswersAlike o o') :
    AnswersAlike (completeOutcome o) (completeOutcome o') := by
  cases o with
  | next t =>
    obtain ⟨t', rfl, ht⟩ := h t rfl
    exact ht.complete.next
  | fault r => nofun
  | refused r => nofun

theorem SameButHidden.engineStep (hs : SameButHidden s s') : AnswersAlike (engineStep s) (engineStep s') := by
  have ⟨_, _, _, _, _, _, hpend, _⟩ := hs
  cases hp : s.pend with
  | none =>
    have : Machine.engineStep s = .fault .noPendingCommand := by simp [Machine.engineStep, hp]
    rw [this]
    nofun
  | some v =>
    rw [engineStep_pending hp, engineStep_pending (hpend.trans hp)]
    exact (hs.performWord v).complete

theorem SameButHidden.engineTurn (hs : SameButHidden s s') : AnswersAlike (engineTurn s) (engineTurn s') := by
  have ⟨_, _, _, _, _, hbusy, _⟩ := hs
  unfold Machine.engineTurn
  rw [hbusy]
  split
  · exact hs.engineStep
  · exact hs.next

theorem SameButHidden.quietStep (hs : SameButHidden s s') : AnswersAlike (quietStep s) (quietStep s') := by
  have ⟨_, _, _, _, _, hbusy, _, _, _, ⟨hwaiting, _⟩, _⟩ := hs
  unfold Machine.quietStep
  rw [hbusy, hwaiting]
  split
  · exact hs.engineStep
  · split
    · exact hs.next
    · exact (hs.serve _).next

theorem SameButHidden.inputStep (hs : SameButHidden s s') (i : Input) :
    AnswersAlike (inputStep i s) (inputStep i s') := by
  cases i with
  | engine => exact hs.engineTurn
  | issue a => exact (hs.issue a).next
  | serve host => exact (hs.serve host).next
  | reset => exact hs.resetEngine.next

theorem SameButHidden.step (hs : SameButHidden s s') : AnswersAlike (step s) (step s') := by
  have ⟨_, _, _, _, _, _, _, _, _, ⟨_, hinputs, _⟩, _⟩ := hs
  unfold Machine.step machineStep
  rw [hinputs]
  split
  · exact hs.quietStep
  · exact (hs.withInputs _).inputStep _

end

/-- Settles O56: each effect carries the hidden elements along or overwrites them, and reads of BUF only what both states share. -/
theorem hiddenStateIsNeverRead : Obligations.HiddenStateIsNeverRead :=
  fun _ _ t hs h => hs.step t h

end Sys2Proof.Machine
end

section
/-! SUPPORT. That the engine answers whenever a word is pending, what every command leaves alone, and the views of the state that a
host reads; from these, the statements O13, O22 and O43. -/

namespace Sys2Proof.Machine

/-- The engine step answers while PEND holds the word that BUSY = 1 asks for (10_state.md R26). -/
theorem engineStep_answers {s : State} (hp : PendMatchesBusy s) (hb : s.busy = true) : ∃ t, engineStep s = .next t := by
  obtain ⟨v, hv⟩ := Option.isSome_iff_exists.mp (hp.symm.trans hb)
  obtain ⟨u, hu⟩ := performWord_answers v s
  rw [engineStep_pending hv, hu]
  exact ⟨_, rfl⟩

theorem engineTurn_answers {s : State} (hp : PendMatchesBusy s) : ∃ t, engineTurn s = .next t := by
  unfold engineTurn
  split
  · exact engineStep_answers hp ‹_›
  · exact ⟨_, rfl⟩

theorem quietStep_answers {s : State} (hp : PendMatchesBusy s) : ∃ t, quietStep s = .next t := by
  unfold quietStep
  split
  · exact engineStep_answers hp ‹_›
  · split <;> exact ⟨_, rfl⟩

/-- Settles O13: of what a step can be, only the engine's can stop, and not with a word pending. -/
theorem everyStepAnswers : Obligations.EveryStepAnswers := by
  intro s hp
  unfold step machineStep
  split
  · exact quietStep_answers hp
  · rename_i i rest _
    cases i with
    | engine => exact engineTurn_answers (s := s.withInputs rest) hp
    | issue a => exact ⟨_, rfl⟩
    | serve host => exact ⟨_, rfl⟩
    | reset => exact ⟨_, rfl⟩

/-- Settles O22, by what a command can do: none of its effects writes the port's side. -/
theorem commandsLeaveThePortSideAlone : Obligations.CommandsLeaveThePortSideAlone := by
  intro i s t h
  rcases exec_cases h with rfl | ⟨_, rfl⟩ | ⟨e, rfl, _⟩ | ⟨ms, _, _, rfl, _⟩ | ⟨_, _, rfl⟩
  case inr.inr.inr.inl => simp [SameQueues]
  case inr.inr.inr.inr => simp [SameQueues]
  all_goals exact ⟨rfl, rfl, rfl, rfl, rfl, rfl⟩

/-! ### STATUS and LEN as numbers (10_state.md R30, R31) -/

/-- The number of two fields side by side. -/
theorem append_toNat {m n : Nat} (x : BitVec m) (y : BitVec n) : (x ++ y).toNat = x.toNat * 2 ^ n + y.toNat := by
  rw [BitVec.toNat_append, ← Nat.shiftLeft_add_eq_or_of_lt y.isLt, Nat.shiftLeft_eq]

theorem statusWord_toNat (s : State) :
    (statusWord s).toNat = s.bufLen.toNat * 2 ^ 8 + s.err.toNat * 2 ^ 4 + s.final.toNat * 2 + s.busy.toNat := by
  have hbuf := s.bufLen.isLt
  have herr := s.err.isLt
  have hfinal := s.final.toNat_le
  have hbusy := s.busy.toNat_le
  simp only [statusWord, BitVec.toNat_setWidth, append_toNat, BitVec.toNat_ofBool, BitVec.toNat_ofNat]
  omega

/-- A field of a word is 0 where its number is. -/
theorem extractLsb'_eq_zero {v : Word} {start len : Nat} (h : v.toNat / 2 ^ start % 2 ^ len = 0) :
    v.extractLsb' start len = 0 := by
  apply BitVec.eq_of_toNat_eq
  rw [BitVec.extractLsb'_toNat, Nat.shiftRight_eq_div_pow, h]
  rfl

theorem lenHigh_append_lenLow (s : State) : lenHigh s ++ lenLow s = s.len := by
  have hlen := s.len.isLt
  apply BitVec.eq_of_toNat_eq
  rw [append_toNat, lenHigh, lenLow, BitVec.extractLsb'_toNat, BitVec.extractLsb'_toNat, Nat.shiftRight_eq_div_pow,
    Nat.shiftRight_eq_div_pow]
  omega

/-- Settles O43: the fields by the number of STATUS, the halves of LEN as adjacent fields of one word. -/
theorem statusAndLengthViews : Obligations.StatusAndLengthViews := by
  intro s
  have hstatus := statusWord_toNat s
  have hbuf := s.bufLen.isLt
  have hfinal := s.final.toNat_le
  have hbusy := s.busy.toNat_le
  have herr := s.err.isLt
  exact ⟨hstatus, extractLsb'_eq_zero (by omega), extractLsb'_eq_zero (by omega), lenHigh_append_lenLow s⟩

end Sys2Proof.Machine
end

section
/-! SUPPORT. Who writes ERR, H, DIGEST, FINAL and DATA_IN; from the events of a step, the statements O45 to O49. -/

namespace Sys2Proof.Machine

/-- A command changes ERR only by recording a first error, or it is init, which clears it (10_state.md R25). -/
theorem exec_err {i : Instr} {s t : State} (h : exec i s = .next t) (he : s.err ≠ 0) :
    t.err = s.err ∨ (t.err = 0 ∧ i = .init) := by
  rcases exec_cases h with rfl | ⟨hi, rfl⟩ | ⟨e, rfl, _⟩ | ⟨ms, _, _, rfl, _⟩ | ⟨_, _, rfl⟩
  · exact .inl rfl
  · exact .inr ⟨rfl, hi⟩
  · exact .inl (recordError_of_ne_zero he e)
  · exact .inl (by simp)
  · exact .inl (by simp)

/-- A command leaves FINAL and DIGEST alone, or it is init or a first final (10_state.md R24, R28). -/
theorem exec_latch {i : Instr} {s t : State} (h : exec i s = .next t) :
    (t.final = s.final ∧ t.digest = s.digest) ∨ i = .init ∨ i = .final := by
  rcases exec_cases h with rfl | ⟨hi, _⟩ | ⟨e, rfl, _⟩ | ⟨ms, _, _, rfl, _⟩ | ⟨hi, _, _⟩
  · exact .inl ⟨rfl, rfl⟩
  · exact .inr (.inl hi)
  · exact .inl ⟨rfl, rfl⟩
  · exact .inl (by simp)
  · exact .inr (.inr hi)

/-- A step leaves FINAL and DIGEST alone, or it is a reset, init or final. -/
theorem step_latch {s t : State} (h : step s = .next t) :
    (t.final = s.final ∧ t.digest = s.digest) ∨ TakesReset s ∨ Runs .init s ∨ Runs .final s := by
  rcases step_engine_cases h with ⟨i, u, hr, hu, rfl⟩ | rfl | ⟨hr, _⟩ | ⟨hk, _⟩
  · rcases exec_latch hu with hsame | rfl | rfl
    · exact .inl hsame
    · exact .inr (.inr (.inl hr))
    · exact .inr (.inr (.inr hr))
  · exact .inl ⟨rfl, rfl⟩
  · exact .inr (.inl hr)
  · exact .inl ⟨hk.final, hk.digest⟩

/-- Reset and init both clear FINAL and DIGEST. -/
theorem step_clears {s t : State} (h : step s = .next t) (hr : TakesReset s ∨ Runs .init s) :
    t.final = false ∧ t.digest = DigestRegs.zero := by
  obtain hr | hr := hr
  · obtain ⟨rest, rfl⟩ := takesReset_step hr h
    exact ⟨rfl, rfl⟩
  · obtain ⟨u, hu, rfl⟩ := runs_step hr h
    cases hu
    exact ⟨rfl, rfl⟩

/-- A final with FINAL = 0 latches H as its compressions left it. -/
theorem step_final_first {s t : State} (h : step s = .next t) (hr : Runs .final s) (hf : s.final = false) :
    t.final = true ∧ t.digest = DigestRegs.latch t.h := by
  obtain ⟨u, hu, rfl⟩ := runs_step hr h
  rw [exec_final_first (by simpa using hf)] at hu
  cases hu
  exact ⟨rfl, rfl⟩

/-- A final with FINAL = 1 leaves FINAL set. -/
theorem step_final_again {s t : State} (h : step s = .next t) (hr : Runs .final s) (hf : s.final = true) :
    t.final = true := by
  obtain ⟨u, hu, rfl⟩ := runs_step hr h
  rw [exec_final_again (by simpa using hf)] at hu
  cases hu
  exact hf

/-- Settles O45: a command but init keeps a recorded error, and so does every other event but a reset. -/
theorem firstErrorStays : Obligations.FirstErrorStays := by
  intro s t h he
  rcases step_engine_cases h with ⟨i, u, hr, hu, rfl⟩ | rfl | ⟨hr, rest, rfl⟩ | ⟨hk, _⟩
  · obtain hsame | ⟨hzero, rfl⟩ := exec_err hu he
    · exact .inl hsame
    · exact .inr ⟨hzero, .inr hr⟩
  · exact .inl (recordError_of_ne_zero he _)
  · exact .inr ⟨rfl, .inl hr⟩
  · exact .inl hk.err

/-- Settles O46: of the commands nop alone writes nothing, and of the other events only a reset writes H. -/
theorem hashRegistersHaveFewWriters : Obligations.HashRegistersHaveFewWriters := by
  intro s t h hne
  rcases step_engine_cases h with ⟨i, u, hr, hu, rfl⟩ | rfl | ⟨hr, _⟩ | ⟨hk, _⟩
  · cases i with
    | nop =>
      cases hu
      exact absurd rfl hne
    | init => exact .inr (.inl hr)
    | absorb n => exact .inr (.inr (.inl ⟨n, hr⟩))
    | absorbB m => exact .inr (.inr (.inr (.inl ⟨m, hr⟩)))
    | final => exact .inr (.inr (.inr (.inr hr)))
  · exact absurd rfl hne
  · exact .inl hr
  · exact absurd hk.h hne

/-- Settles O47: every other event keeps DIGEST; what the three writers leave there. -/
theorem digestHasThreeWriters : Obligations.DigestHasThreeWriters := by
  intro s t h
  refine ⟨fun hne => ?_, fun hr => ?_, fun hr hf => ?_⟩
  · exact (step_latch h).resolve_left fun ⟨_, hd⟩ => hne hd
  · exact (step_clears h hr).2
  · exact (step_final_first h hr hf).2

/-- Settles O48: every other event keeps FINAL; what the three writers leave there. -/
theorem phaseHasThreeWriters : Obligations.PhaseHasThreeWriters := by
  intro s t h
  refine ⟨fun hne => ?_, fun hr => ?_, fun hr => ?_⟩
  · exact (step_latch h).resolve_left fun ⟨hf, _⟩ => hne hf
  · exact (step_clears h hr).1
  · cases hf : s.final with
    | true => exact step_final_again h hr hf
    | false => exact (step_final_first h hr hf).1

/-- Settles O49, by the events of a step: a command leaves DATA_IN alone, and of the port's only the write to 0x08 sets it. -/
theorem dataInHasTwoWriters : Obligations.DataInHasTwoWriters := by
  intro s t h hne
  rcases step_events h with ⟨i, u, _, hu, rfl⟩ | ⟨_, rfl⟩ | rfl | ⟨a, rest, _, rfl⟩ | ⟨a, r, _, rfl⟩ |
    ⟨a, _, _, _, _, _, rfl⟩ | ⟨a, hs, hw, hd, hoff, hb, rfl⟩ | ⟨rest, hi, rfl⟩
  case inl =>
    obtain ⟨hdata, _⟩ := commandsLeaveThePortSideAlone i _ u hu
    exact absurd hdata hne
  case inr.inr.inr.inr.inr.inr.inl => exact .inr ⟨a, hs, hd, hoff, hw, hb, rfl⟩
  case inr.inr.inr.inr.inr.inr.inr => exact .inl ⟨⟨rest, hi⟩, rfl⟩
  all_goals exact absurd rfl hne

end Sys2Proof.Machine
end

section
/-! SUPPORT. The primes whose square roots the IV is made of, and the IV against them: the statement O3. -/

namespace Sys2Proof.Machine

/-- The first sixteen primes. -/
theorem primes_below_54 :
    (List.range 54).filter isPrimeNumber = [2, 3, 5, 7, 11, 13, 17, 19, 23, 29, 31, 37, 41, 43, 47, 53] := by decide

/-- The list of primes begins with those below 54. -/
theorem primeNumbers_getD {k : Nat} (h : k < 16) :
    primeNumbers.getD k 0 = [2, 3, 5, 7, 11, 13, 17, 19, 23, 29, 31, 37, 41, 43, 47, 53].getD k 0 := by
  rw [primeNumbers, show 410 = 54 + 356 from rfl, List.range_add, List.filter_append, primes_below_54,
    List.getD_append _ _ _ _ h]

/-- The integer part of the square root of the (9+i)-th prime. -/
def rootFloor (i : Fin 8) : Nat := [4, 5, 5, 6, 6, 6, 6, 7].getD i.val 0

/-- Settles O3: with the integer parts of the roots at hand, eight pairs of inequalities on numbers. -/
theorem initialHashIsSquareRootFractions : Obligations.InitialHashIsSquareRootFractions := by
  intro i
  refine ⟨rootFloor i, ?_⟩
  rw [primeNumbers_getD (by omega)]
  revert i
  decide

end Sys2Proof.Machine
end

section
/-! SUPPORT. The register map row by row, and each outcome of the port under the test that decides it (20_memory.md R51 to R57);
from these, the statements O37, O41 and O42. -/

namespace Sys2Proof.Machine

/-! ### The register map (20_memory.md R51) -/

theorem registerAt_spec {off : Nat} {row : RegRow} (h : registerAt off = some row) :
    row ∈ registerMap ∧ row.offset = off :=
  ⟨List.mem_of_find?_eq_some h, by simpa using List.find?_some h⟩

/-- The registers lie at multiples of 8. -/
theorem registerAt_aligned {off : Nat} {row : RegRow} (h : registerAt off = some row) : off % 8 = 0 := by
  obtain ⟨hmem, rfl⟩ := registerAt_spec h
  exact (by decide : ∀ row ∈ registerMap, row.offset % 8 = 0) row hmem

theorem registerAt_unmapped : ∀ off ∈ [0x28, 0x30, 0x38, 0x70, 0x78], off % 8 = 0 ∧ registerAt off = none := by decide

theorem registerAt_readOnly : ∀ off ∈ [0x10, 0x18, 0x20, 0x40, 0x48, 0x50, 0x58, 0x60, 0x68],
    ∃ row ∈ registerAt off, row.writable = false := by decide

theorem registerAt_heldWrite : ∀ off ∈ [0x00, 0x08],
    ∃ row ∈ registerAt off, row.writable = true ∧ row.writeHolds = true := by decide

theorem registerAt_heldRead : ∀ off ∈ [0x08, 0x18, 0x20, 0x40, 0x48, 0x50, 0x58, 0x60, 0x68],
    ∃ row ∈ registerAt off, row.readable = true ∧ row.readHolds = true := by decide

/-- CMD and DATA_IN are the only writable registers. -/
theorem registerAt_writable {off : Nat} {row : RegRow} (h : registerAt off = some row) (hw : row.writable = true) :
    off = 0x00 ∧ row.reg = .cmd ∨ off = 0x08 ∧ row.reg = .dataIn := by
  obtain ⟨hmem, rfl⟩ := registerAt_spec h
  exact (by decide : ∀ row ∈ registerMap, row.writable = true →
    row.offset = 0x00 ∧ row.reg = .cmd ∨ row.offset = 0x08 ∧ row.reg = .dataIn) row hmem hw

/-- A readable register has a value (20_memory.md R56). -/
theorem portRead_readable {off : Nat} {row : RegRow} (h : registerAt off = some row) (hr : row.readable = true)
    (s : State) : ∃ v, portRead row.reg s = some v := by
  have hne : row.reg ≠ .cmd :=
    (by decide : ∀ row ∈ registerMap, row.readable = true → row.reg ≠ .cmd) row (registerAt_spec h).1 hr
  cases hreg : row.reg with
  | cmd => exact absurd hreg hne
  | dataIn | status | lenLo | lenHi | digest k => exact ⟨_, rfl⟩

/-- A writable register takes a value (20_memory.md R55). -/
theorem portWrite_writable {off : Nat} {row : RegRow} (h : registerAt off = some row) (hw : row.writable = true)
    (v : Word) (s : State) : ∃ t, portWrite row.reg v s = some t := by
  obtain ⟨_, hreg⟩ | ⟨_, hreg⟩ := registerAt_writable h hw <;> rw [hreg] <;> exact ⟨_, rfl⟩

/-! ### The tests of the port (20_memory.md R54), each under the premises that the earlier ones passed -/

section
variable {a : Access} {s : State}

theorem portAccess_width (hw : a.width ≠ 64) : portAccess a s = .busError .width := if_pos hw

theorem portAccess_align (hw : a.width = 64) (ha : a.off.toNat % 8 ≠ 0) : portAccess a s = .busError .align := by
  simp [portAccess, hw, ha]

theorem portAccess_unmapped (hw : a.width = 64) (ha : a.off.toNat % 8 = 0) (hr : registerAt a.off.toNat = none) :
    portAccess a s = .busError .unmapped := by
  simp [portAccess, hw, ha, hr]

theorem portAccess_noRegister (hw : a.width = 64) (hr : registerAt a.off.toNat = none) :
    ∃ reason, portAccess a s = .busError reason := by
  by_cases ha : a.off.toNat % 8 = 0
  · exact ⟨_, portAccess_unmapped hw ha hr⟩
  · exact ⟨_, portAccess_align hw ha⟩

variable {row : RegRow}

/-- At a register two tests are left, the access set and the hold. -/
theorem portAccess_register (hw : a.width = 64) (hr : registerAt a.off.toNat = some row) :
    portAccess a s = if row.allows a.dir = false then .busError .access
      else if row.holds a.dir && s.busy then .hold else performAccess row.reg a s := by
  simp [portAccess, hw, registerAt_aligned hr, hr]

theorem portAccess_refused (hw : a.width = 64) (hr : registerAt a.off.toNat = some row)
    (hset : row.allows a.dir = false) : portAccess a s = .busError .access := by
  rw [portAccess_register hw hr, if_pos hset]

theorem portAccess_held (hw : a.width = 64) (hr : registerAt a.off.toNat = some row) (hset : row.allows a.dir = true)
    (hh : row.holds a.dir = true) (hb : s.busy = true) : portAccess a s = .hold := by
  simp [portAccess_register hw hr, hset, hh, hb]

theorem portAccess_performed (hw : a.width = 64) (hr : registerAt a.off.toNat = some row)
    (hset : row.allows a.dir = true) (hh : s.busy = false ∨ row.holds a.dir = false) :
    portAccess a s = performAccess row.reg a s := by
  obtain hb | hh := hh
  · simp [portAccess_register hw hr, hset, hb]
  · simp [portAccess_register hw hr, hset, hh]

/-! ### A read or a write of a register -/

theorem portAccess_reads {v : Word} (hw : a.width = 64) (hd : a.dir = .read) (hr : registerAt a.off.toNat = some row)
    (hset : row.readable = true) (hh : s.busy = false ∨ row.readHolds = false) (hv : portRead row.reg s = some v) :
    portAccess a s = .readDone v := by
  rw [portAccess_performed hw hr (by rwa [hd]) (by rwa [hd])]
  simp only [performAccess, hd, hv]

theorem portAccess_writes {t : State} (hw : a.width = 64) (hd : a.dir = .write)
    (hr : registerAt a.off.toNat = some row) (hset : row.writable = true)
    (hh : s.busy = false ∨ row.writeHolds = false) (ht : portWrite row.reg a.value s = some t) :
    portAccess a s = .writeDone t := by
  rw [portAccess_performed hw hr (by rwa [hd]) (by rwa [hd])]
  simp only [performAccess, hd, ht]

theorem portAccess_heldRead (hw : a.width = 64) (hd : a.dir = .read)
    (ho : a.off.toNat ∈ [0x08, 0x18, 0x20, 0x40, 0x48, 0x50, 0x58, 0x60, 0x68]) :
    if s.busy then portAccess a s = .hold else ∃ v, portAccess a s = .readDone v := by
  obtain ⟨row, hr, hset, hh⟩ := registerAt_heldRead _ ho
  split
  case isTrue hb => exact portAccess_held hw hr (by rwa [hd]) (by rwa [hd]) hb
  case isFalse hb =>
    obtain ⟨v, hv⟩ := portRead_readable hr hset s
    exact ⟨v, portAccess_reads hw hd hr hset (.inl (by simpa using hb)) hv⟩

theorem portAccess_heldWrite (hw : a.width = 64) (hd : a.dir = .write) (ho : a.off.toNat ∈ [0x00, 0x08]) :
    if s.busy then portAccess a s = .hold else ∃ t, portAccess a s = .writeDone t := by
  obtain ⟨row, hr, hset, hh⟩ := registerAt_heldWrite _ ho
  split
  case isTrue hb => exact portAccess_held hw hr (by rwa [hd]) (by rwa [hd]) hb
  case isFalse hb =>
    obtain ⟨t, ht⟩ := portWrite_writable hr hset a.value s
    exact ⟨t, portAccess_writes hw hd hr hset (.inl (by simpa using hb)) ht⟩

/-- STATUS is read whatever BUSY is. -/
theorem portAccess_readsStatus (hw : a.width = 64) (hd : a.dir = .read) (ho : a.off.toNat = 0x10) :
    portAccess a s = .readDone (statusWord s) :=
  portAccess_reads hw hd (by rw [ho]; rfl) rfl (.inr rfl) rfl

end

/-- Settles O37: the five tests in order, each by the row of the register map at the offset, if there is one. -/
theorem portDecidesInOrder : Obligations.PortDecidesInOrder := by
  intro a s
  refine ⟨portAccess_width, portAccess_align, fun hw ho => ?unmapped, fun hw hd ho => ?readCmd, fun hw hd ho => ?readOnly,
    portAccess_heldWrite, portAccess_heldRead, fun hw hd ho => ⟨_, portAccess_readsStatus hw hd ho⟩⟩
  case unmapped =>
    obtain ⟨ha, hr⟩ := registerAt_unmapped _ ho
    exact portAccess_unmapped hw ha hr
  case readCmd => exact portAccess_refused hw (by rw [ho]; rfl) (by rw [hd]; rfl)
  case readOnly =>
    obtain ⟨row, hr, hset⟩ := registerAt_readOnly _ ho
    exact portAccess_refused hw hr (by rwa [hd])

/-- Settles O41: a readable register's value by its row; only STATUS is read while BUSY. -/
theorem portReadsReturnTheRegister : Obligations.PortReadsReturnTheRegister := by
  intro a s hw hd hb
  have hreads {off : Nat} {row : RegRow} {v : Word} (hne : off ≠ 0x10) (hr : registerAt off = some row)
      (hset : row.readable = true) (hv : portRead row.reg s = some v) (ho : a.off.toNat = off) :
      portAccess a s = .readDone v :=
    portAccess_reads hw hd (by rwa [ho]) hset (.inl (hb.resolve_right (by rwa [ho]))) hv
  refine ⟨?_, portAccess_readsStatus hw hd, ?_, ?_, ?_, ?_, ?_, ?_, ?_, ?_⟩
  all_goals exact hreads (by decide) rfl rfl rfl

/-- Settles O42: the rows of CMD and DATA_IN; at any other offset the alignment, the mapping or the access set fails. -/
theorem portWritesStoreTheValue : Obligations.PortWritesStoreTheValue := by
  intro a s hw hd
  refine ⟨fun hb ho => portAccess_writes hw hd (by rw [ho]; rfl) rfl (.inl hb) rfl,
    fun hb ho => portAccess_writes hw hd (by rw [ho]; rfl) rfl (.inl hb) rfl, fun hcmd hdata => ?other⟩
  case other =>
    cases hr : registerAt a.off.toNat with
    | none => exact portAccess_noRegister hw hr
    | some row =>
      have hset : row.writable ≠ true := fun hset => by
        obtain ⟨ho, _⟩ | ⟨ho, _⟩ := registerAt_writable hr hset
        · exact hcmd ho
        · exact hdata ho
      exact ⟨_, portAccess_refused hw hr (by rw [hd]; exact Bool.eq_false_iff.mpr hset)⟩

end Sys2Proof.Machine
end

section
/-! SUPPORT. What a step does to the port's queues, what an access served leaves, and that a pending command shows nothing; from
these, the statements O38, O40, O44 and O51. -/

namespace Sys2Proof.Machine

/-! ### The access served -/

theorem step_serve {s : State} {host : Nat} {rest : List Input} (h : s.inputs = .serve host :: rest) :
    step s = .next ((s.withInputs rest).serve host) := by
  simp only [step, machineStep, h, inputStep]

section
variable {s : State} {host : Nat} {a : Access}

theorem serve_hold (ho : s.oldestOf host = some a) (hp : portAccess a s = .hold) : s.serve host = s := by
  simp only [State.serve, ho, hp]

theorem serve_readDone {v : Word} (ho : s.oldestOf host = some a) (hp : portAccess a s = .readDone v) :
    s.serve host = s.answer host (.value v) := by
  simp only [State.serve, ho, hp]

theorem serve_writeDone {t : State} (ho : s.oldestOf host = some a) (hp : portAccess a s = .writeDone t) :
    s.serve host = t.answer host .written := by
  simp only [State.serve, ho, hp]

end

/-- No write reaches the queues. -/
theorem portWrite_sameQueues {r : Reg} {v : Word} {s t : State} (h : portWrite r v s = some t) : SameQueues s t := by
  cases r with
  | cmd | dataIn => cases h; exact ⟨rfl, rfl, rfl⟩
  | status | lenLo | lenHi | digest k => cases h

/-- The port ends an access with a bus error, holds it, or performs it on a register (20_memory.md R54). -/
theorem portAccess_cases (a : Access) (s : State) :
    (∃ reason, portAccess a s = .busError reason) ∨ portAccess a s = .hold ∨
      ∃ r, portAccess a s = performAccess r a s := by
  by_cases hw : a.width = 64
  · cases hr : registerAt a.off.toNat with
    | none => exact .inl (portAccess_noRegister hw hr)
    | some row =>
      rw [portAccess_register hw hr]
      split
      · exact .inl ⟨_, rfl⟩
      · split
        · exact .inr (.inl rfl)
        · exact .inr (.inr ⟨_, rfl⟩)
  · exact .inl ⟨_, portAccess_width hw⟩

theorem performAccess_writeDone {r : Reg} {a : Access} {s t : State} (h : performAccess r a s = .writeDone t) :
    portWrite r a.value s = some t := by
  unfold performAccess at h
  split at h
  · split at h <;> cases h
  · split at h
    · cases h; assumption
    · cases h

/-- An access that ends in a performed write wrote a register. -/
theorem portAccess_writeDone {a : Access} {s t : State} (h : portAccess a s = .writeDone t) :
    ∃ r, portWrite r a.value s = some t := by
  obtain ⟨_, hp⟩ | hp | ⟨r, hp⟩ := portAccess_cases a s
  · cases hp.symm.trans h
  · cases hp.symm.trans h
  · exact ⟨r, performAccess_writeDone (hp.symm.trans h)⟩

/-- Settles O38: a read answers with the port's value; a write leaves what the port wrote, and no write reaches the queues. -/
theorem servedAccessIsAnswered : Obligations.ServedAccessIsAnswered := by
  intro s a rest hi holdest
  have ho : (s.withInputs rest).oldestOf a.host = some a := holdest
  rw [step_serve hi]
  refine ⟨fun v hp => by rw [serve_readDone ho hp]; rfl, fun t hp => ?_⟩
  obtain ⟨r, ht⟩ := portAccess_writeDone hp
  obtain ⟨hwaiting, _, hresponses⟩ := portWrite_sameQueues ht
  rw [serve_writeDone ho hp, State.answer, hwaiting, hresponses]
  rfl

/-- Settles O51: of the events of a step, a command run, an illegal word and a reset leave BUSY = 0, a performed write asks for
BUSY = 0, and the others write nothing but the queues. -/
theorem pendingCommandIsInvisible : Obligations.PendingCommandIsInvisible := by
  intro s t h hs ht
  rcases step_events h with ⟨i, u, _, _, rfl⟩ | ⟨_, rfl⟩ | rfl | ⟨a, rest, _, rfl⟩ | ⟨a, r, _, rfl⟩ |
    ⟨a, _, _, _, _, hidle, _⟩ | ⟨a, _, _, _, _, hidle, _⟩ | ⟨rest, _, rfl⟩
  case inl | inr.inl | inr.inr.inr.inr.inr.inr.inr => exact absurd ht Bool.false_ne_true
  case inr.inr.inr.inr.inr.inl | inr.inr.inr.inr.inr.inr.inl => exact absurd (hidle.symm.trans hs) Bool.false_ne_true
  all_goals exact ⟨⟨rfl, rfl, rfl, rfl, rfl, rfl, rfl, rfl, rfl⟩, rfl⟩

/-- Settles O40: a holding access leaves the state as it is, a STATUS read is answered, and BUSY stays 1 over it. -/
theorem heldAccessesWaitWithoutEffect : Obligations.HeldAccessesWaitWithoutEffect := by
  intro s a rest hb hi holdest hw
  have ho : (s.withInputs rest).oldestOf a.host = some a := holdest
  have hstep := step_serve hi
  refine ⟨fun haccess => ?held, fun ⟨hd, hoff⟩ => ?status⟩
  case held =>
    have hp : portAccess a (s.withInputs rest) = .hold := by
      obtain ⟨hd, hoff⟩ | ⟨hd, hoff⟩ := haccess
      · simpa [hb] using portAccess_heldWrite (s := s.withInputs rest) hw hd hoff
      · simpa [hb] using portAccess_heldRead (s := s.withInputs rest) hw hd hoff
    rw [hstep, serve_hold ho hp]
    rfl
  case status =>
    rw [serve_readDone ho (portAccess_readsStatus hw hd hoff)] at hstep
    obtain ⟨hsame, hpend⟩ := pendingCommandIsInvisible s _ hstep hb hb
    exact ⟨_, _, hstep, rfl, hsame, hb, hpend⟩

/-! ### The queues -/

theorem Serves.oldestOf {a : Access} {s : State} (h : Serves a s) : s.oldestOf a.host = some a := by
  obtain ⟨_, _, ho⟩ | ⟨_, _, hhead⟩ := h
  · exact ho
  · obtain ⟨as, has⟩ := List.head?_eq_some_iff.mp hhead
    simp [State.oldestOf, has]

/-- Seen at the queues, a step changes nothing, adds an access at the end, or answers the oldest of a host. -/
theorem step_queues {s t : State} (h : step s = .next t) :
    (t.waiting = s.waiting ∧ t.responses = s.responses) ∨
    (∃ a, t.waiting = s.waiting ++ [a] ∧ t.responses = s.responses) ∨
    ∃ a r, s.oldestOf a.host = some a ∧ t.waiting = s.waiting.eraseP (fun b => b.host == a.host) ∧
      t.responses = s.responses ++ [⟨a.host, r⟩] := by
  rcases step_events h with ⟨i, u, _, hu, rfl⟩ | ⟨_, rfl⟩ | rfl | ⟨a, rest, _, rfl⟩ | ⟨a, r, hs, rfl⟩ |
    ⟨a, hs, _, _, _, _, rfl⟩ | ⟨a, hs, _, _, _, _, rfl⟩ | ⟨rest, _, rfl⟩
  case inl =>
    obtain ⟨_, _, _, hwaiting, _, hresponses⟩ := commandsLeaveThePortSideAlone i _ u hu
    exact .inl ⟨hwaiting, hresponses⟩
  case inr.inl | inr.inr.inl | inr.inr.inr.inr.inr.inr.inr => exact .inl ⟨rfl, rfl⟩
  case inr.inr.inr.inl => exact .inr (.inl ⟨a, rfl, rfl⟩)
  all_goals exact .inr (.inr ⟨a, _, hs.oldestOf, rfl, rfl⟩)

/-- The oldest access of a host stands behind none of that host, and erasing it leaves the others in their order. -/
theorem oldestOf_eq_some {s : State} {host : Nat} {a : Access} (h : s.oldestOf host = some a) :
    ∃ before after, s.waiting = before ++ a :: after ∧ (∀ b ∈ before, b.host ≠ host) ∧
      s.waiting.eraseP (fun b => b.host == host) = before ++ after := by
  obtain ⟨ha, before, after, hsplit, hbefore⟩ := List.find?_eq_some_iff_append.mp h
  refine ⟨before, after, hsplit, fun b hb => by simpa using hbefore b hb, ?_⟩
  rw [hsplit, List.eraseP_append_right _ (by simpa using hbefore)]
  simp [ha]

/-- Settles O44: the queues of the whole port, filtered to one host. -/
theorem eachHostIsServedInOrder : Obligations.EachHostIsServedInOrder := by
  intro s t host h
  rcases step_queues h with ⟨hwaiting, hresponses⟩ | ⟨a, hwaiting, hresponses⟩ | ⟨a, r, ho, hwaiting, hresponses⟩
  · exact .inl ⟨by rw [hwaiting], by rw [hresponses]⟩
  · rw [hwaiting]
    by_cases hhost : a.host = host
    · exact .inr (.inr ⟨a, hhost, by simp [hhost], hresponses⟩)
    · exact .inl ⟨by simp [hhost], by rw [hresponses]⟩
  · obtain ⟨before, after, hsplit, hbefore, herase⟩ := oldestOf_eq_some ho
    rw [hwaiting, herase, hsplit, hresponses]
    by_cases hhost : a.host = host
    · subst hhost
      have hnone : before.filter (fun b => b.host == a.host) = [] := by simpa using hbefore
      exact .inr (.inl ⟨a, r, by simp [hnone], rfl⟩)
    · exact .inl ⟨by simp [hhost], by simp [hhost]⟩

end Sys2Proof.Machine
end

section
/-! SUPPORT. A word decodes to a command exactly when it is the encoding of one; the rows of the opcode table, and the assembler. From
these, the statements O5 to O9. -/

namespace Sys2Proof.Machine

/-! ### Decode and encode (30_encoding.md R81 to R86) -/

/-- A word that decodes to a command is that command's word as a number, its operand added (30_encoding.md R81). -/
theorem decode_command_cases {v : Word} {i : Instr} (h : decode v = .command i) :
    (i = .nop ∧ v.toNat = 0) ∨
    (i = .init ∧ v.toNat = 0x1000000) ∨
    (i = .absorb (fieldByteCount v) ∧ v.toNat = 0x2000000 + (fieldByteCount v).toNat ∧ (fieldByteCount v).toNat ≤ 8) ∨
    (i = .absorbB (fieldArgument v) ∧ v.toNat = 0x3000000 + (fieldArgument v).toNat) ∨
    (i = .final ∧ v.toNat = 0x4000000) := by
  have hcount := fieldByteCount_toNat v
  have harg := fieldArgument_toNat v
  rcases decode_cases v with ⟨_, hd⟩ | ⟨_, _, hd⟩ | ⟨_, _, hcases⟩
  · cases hd.symm.trans h
  · cases hd.symm.trans h
  · rcases hcases with ⟨_, _, hd⟩ | ⟨_, _, hd⟩ | ⟨_, _, hd⟩ | ⟨_, hd⟩ | ⟨_, _, hd⟩ | ⟨_, _, hd⟩ | ⟨_, _, hd⟩ | ⟨_, hd⟩ <;>
      cases hd.symm.trans h
    · exact .inl ⟨rfl, by omega⟩
    · exact .inr (.inl ⟨rfl, by omega⟩)
    · exact .inr (.inr (.inl ⟨rfl, by omega, by omega⟩))
    · exact .inr (.inr (.inr (.inl ⟨rfl, by omega⟩)))
    · exact .inr (.inr (.inr (.inr ⟨rfl, by omega⟩)))

theorem encode_of_decode {v : Word} {i : Instr} (h : decode v = .command i) : encode i = v := by
  apply BitVec.eq_of_toNat_eq
  rw [encode_toNat]
  obtain ⟨rfl, hv⟩ | ⟨rfl, hv⟩ | ⟨rfl, hv, _⟩ | ⟨rfl, hv⟩ | ⟨rfl, hv⟩ := decode_command_cases h
  all_goals exact hv.symm

theorem wellFormed_of_decode {v : Word} {i : Instr} (h : decode v = .command i) : WellFormed i := by
  obtain ⟨rfl, _⟩ | ⟨rfl, _⟩ | ⟨rfl, _, hle⟩ | ⟨rfl, _⟩ | ⟨rfl, _⟩ := decode_command_cases h
  case inr.inr.inl => exact decide_eq_true hle
  all_goals rfl

theorem decode_encode {i : Instr} (h : WellFormed i) : decode (encode i) = .command i := by
  cases i with
  | nop | init | final => decide
  | absorb n => revert n; decide
  | absorbB b => clear h; revert b; decide

/-- Settles O5: the encoding of a decoded command is the word it was decoded from, by the shapes of a legal word; and the encoding
of each well-formed command decodes to it. -/
theorem decodeInvertsEncode : Obligations.DecodeInvertsEncode := fun _ _ =>
  ⟨fun h => ⟨wellFormed_of_decode h, encode_of_decode h⟩, fun ⟨hwf, henc⟩ => henc ▸ decode_encode hwf⟩

theorem decode_command_iff (v : Word) (i : Instr) : decode v = .command i ↔ WellFormed i ∧ v.toNat = (encode i).toNat := by
  rw [decodeInvertsEncode, eq_comm, field_eq_iff]

theorem fieldByteCount_eq_ofNat (v : Word) : fieldByteCount v = BitVec.ofNat 4 (v.toNat % 2 ^ 4) := by
  rw [← fieldByteCount_toNat, BitVec.ofNat_toNat, BitVec.setWidth_eq]

theorem fieldArgument_eq_ofNat (v : Word) : fieldArgument v = BitVec.ofNat 8 (v.toNat % 2 ^ 8) := by
  rw [← fieldArgument_toNat, BitVec.ofNat_toNat, BitVec.setWidth_eq]

/-- Settles O6: a word that decodes to no command is illegal with a reason, and the shape of one that does fixes its opcode. -/
theorem decoderFollowsLegality : Obligations.DecoderFollowsLegality := by
  intro v
  rw [legal_iff_command, ← fieldByteCount_eq_ofNat, ← fieldArgument_eq_ofNat]
  refine ⟨fun hillegal => ?_, fun ⟨i, hi⟩ => ?_⟩
  · cases hd : decode v with
    | command i => exact absurd ⟨i, hd⟩ hillegal
    | illegal why => exact ⟨why, rfl⟩
  · have hcount := (fieldByteCount v).isLt
    have harg := (fieldArgument v).isLt
    rw [hi]
    obtain ⟨rfl, hv⟩ | ⟨rfl, hv⟩ | ⟨rfl, hv, _⟩ | ⟨rfl, hv⟩ | ⟨rfl, hv⟩ := decode_command_cases hi
    · exact ⟨fun _ => rfl, by omega, by omega, by omega, by omega⟩
    · exact ⟨by omega, fun _ => rfl, by omega, by omega, by omega⟩
    · exact ⟨by omega, by omega, fun _ => rfl, by omega, by omega⟩
    · exact ⟨by omega, by omega, by omega, fun _ => rfl, by omega⟩
    · exact ⟨by omega, by omega, by omega, by omega, fun _ => rfl⟩

/-! ### The rows of the opcode table (30_encoding.md R87) -/

/-- Under a mask of ones from bit `k` up a word keeps its multiple of `2 ^ k`. -/
theorem and_onesFrom_toNat (v : Word) (k : Nat) :
    (v &&& BitVec.allOnes 64 <<< k).toNat = v.toNat / 2 ^ k * 2 ^ k := by
  rw [← BitVec.shiftLeft_ushiftRight, BitVec.toNat_shiftLeft, BitVec.toNat_ushiftRight, Nat.shiftRight_eq_div_pow,
    Nat.shiftLeft_eq]
  exact Nat.mod_eq_of_lt ((Nat.div_mul_le_self _ _).trans_lt v.isLt)

/-- The opcode of a word that matches a row is the row's: every mask has all bits of OPC. -/
theorem fieldOpcode_of_matchesWord {r : OpcodeRow} {v : Word} (hr : r ∈ opcodeRows) (h : r.matchesWord v = true) :
    fieldOpcode v = fieldOpcode r.pattern := by
  have hmask : ∀ r ∈ opcodeRows, fieldOpcode r.mask = BitVec.allOnes 8 := by decide
  have hpattern : v &&& r.mask = r.pattern := eq_of_beq h
  rw [← hpattern, fieldOpcode, fieldOpcode, BitVec.extractLsb'_and, ← fieldOpcode, ← fieldOpcode, hmask r hr,
    BitVec.and_allOnes]

/-- No two rows share an opcode. -/
theorem row_eq_of_fieldOpcode_eq : ∀ r ∈ opcodeRows, ∀ r' ∈ opcodeRows,
    fieldOpcode r.pattern = fieldOpcode r'.pattern → r = r' := by decide

/-- Where `c` has its low `k` bits 0, a word is `c` with an operand in those bits exactly when its other bits are those of `c`, and
its low `k` bits are then the operand. -/
theorem exists_toNat_eq_add_iff (v : Word) (k c : Nat) (P : Nat → Prop) (hc : c % 2 ^ k = 0) :
    (∃ n : BitVec k, P n.toNat ∧ v.toNat = c + n.toNat) ↔ v.toNat / 2 ^ k * 2 ^ k = c ∧ P (v.toNat % 2 ^ k) := by
  have hdiv : c / 2 ^ k * 2 ^ k = c := Nat.div_mul_cancel (Nat.dvd_of_mod_eq_zero hc)
  have hsplit := Nat.div_add_mod' v.toNat (2 ^ k)
  constructor
  · rintro ⟨n, hn, hv⟩
    have hmod : v.toNat % 2 ^ k = n.toNat := by
      rw [hv, Nat.add_mod, hc, Nat.zero_add, Nat.mod_mod, Nat.mod_eq_of_lt n.isLt]
    exact ⟨by omega, hmod ▸ hn⟩
  · rintro ⟨hv, hn⟩
    have hmod : (v.setWidth k).toNat = v.toNat % 2 ^ k := BitVec.toNat_setWidth ..
    exact ⟨v.setWidth k, hmod ▸ hn, by omega⟩

/-- Settles O7: a row with no operand asks for the whole word, one with an operand for all of it but the operand; and two rows that
one word matches have its opcode, which no two rows share. -/
theorem opcodeRowsAgreeWithTheDecoder : Obligations.OpcodeRowsAgreeWithTheDecoder := by
  intro v
  have hones : (0xFFFFFFFFFFFFFFFF#64 : Word) = BitVec.allOnes 64 := rfl
  have hones4 : (0xFFFFFFFFFFFFFFF0#64 : Word) = BitVec.allOnes 64 <<< 4 := rfl
  have hones8 : (0xFFFFFFFFFFFFFF00#64 : Word) = BitVec.allOnes 64 <<< 8 := rfl
  simp only [hones, hones4, hones8, BitVec.and_allOnes, field_eq_iff _ (_ : Word), and_onesFrom_toNat, decode_command_iff]
  refine ⟨?nop, ?init, ?absorb, ?absorbB, ?final, fun r hr r' hr' h h' => ?overlap⟩
  case nop | init | final => exact and_iff_right rfl
  case absorb =>
    simp only [encode_toNat, WellFormed, Instr.wellFormed, decide_eq_true_eq]
    exact exists_toNat_eq_add_iff v 4 0x2000000 (· ≤ 8) rfl
  case absorbB =>
    simpa [encode_toNat, WellFormed, Instr.wellFormed] using exists_toNat_eq_add_iff v 8 0x3000000 (fun _ => True) rfl
  case overlap =>
    exact row_eq_of_fieldOpcode_eq r hr r' hr'
      ((fieldOpcode_of_matchesWord hr h).symm.trans (fieldOpcode_of_matchesWord hr' h'))

/-! ### The assembler (30_encoding.md R88) -/

theorem encode_absorb (n : BitVec 4) : encode (.absorb n) = 0x0000000002000000 ||| n.setWidth 64 := by
  revert n; decide

theorem encode_absorbB (b : Byte) : encode (.absorbB b) = 0x0000000003000000 ||| b.setWidth 64 := by
  revert b; decide

theorem assemble_absorb {n : Nat} (h : n ≤ 8) :
    assemble (.absorb n) = some (0x0000000002000000 ||| BitVec.ofNat 64 n) := by
  rw [← BitVec.setWidth_ofNat_of_le_of_lt (w := 4) (by decide) (by omega), ← encode_absorb]
  exact if_pos h

theorem assemble_absorb_outOfRange {n : Nat} (h : 8 < n) : assemble (.absorb n) = none := if_neg (by omega)

theorem assembleByte_inRange {m : Nat} (h : m ≤ 255) :
    assembleByte m = some (0x0000000003000000 ||| BitVec.ofNat 64 m) := by
  rw [← BitVec.setWidth_ofNat_of_le_of_lt (w := 8) (by decide) (by omega), ← encode_absorbB]
  exact if_pos h

theorem assembleByte_outOfRange {m : Nat} (h : 255 < m) : assembleByte m = none := if_neg (by omega)

theorem assemble_quoted {c : Char} (h : c.toNat ≤ 127) : assemble (.absorbBQuoted c) = assembleByte c.toNat := if_pos h

theorem assemble_quoted_outOfRange {c : Char} (h : 127 < c.toNat) : assemble (.absorbBQuoted c) = none :=
  if_neg (by omega)

theorem assembleByte_encodes {m : Nat} {v : Word} (h : assembleByte m = some v) : ∃ i, WellFormed i ∧ v = encode i := by
  unfold assembleByte at h
  split at h
  · cases h; exact ⟨_, rfl, rfl⟩
  · cases h

/-- What the assembler answers is the encoding of a well-formed command. -/
theorem assemble_encodes {c : AsmCommand} {v : Word} (h : assemble c = some v) : ∃ i, WellFormed i ∧ v = encode i := by
  cases c with
  | nop | init | final => cases h; exact ⟨_, rfl, rfl⟩
  | absorb n =>
    by_cases hn : n ≤ 8
    · rw [assemble, if_pos hn] at h
      cases h
      have hle : (BitVec.ofNat 4 n).toNat ≤ 8 := (Nat.mod_le ..).trans hn
      exact ⟨.absorb (BitVec.ofNat 4 n), decide_eq_true hle, rfl⟩
    · rw [assemble_absorb_outOfRange (by omega)] at h
      cases h
  | absorbB m => exact assembleByte_encodes h
  | absorbBQuoted c =>
    by_cases hc : c.toNat ≤ 127
    · exact assembleByte_encodes ((assemble_quoted hc).symm.trans h)
    · rw [assemble_quoted_outOfRange (by omega)] at h
      cases h

/-- Settles O8: each operand in its range has its word and none out of it; a word the assembler answers is the encoding of a
well-formed command, which decodes to that command and so is legal. -/
theorem assemblerEncodesOnlyLegalWords : Obligations.AssemblerEncodesOnlyLegalWords := by
  refine ⟨rfl, rfl, rfl, fun n => assemble_absorb, fun n => assemble_absorb_outOfRange, fun m => assembleByte_inRange,
    fun m => assembleByte_outOfRange, fun c hc => (assemble_quoted hc).trans (assembleByte_inRange (by omega)),
    fun c => assemble_quoted_outOfRange, fun c v h => ?_⟩
  obtain ⟨i, hwf, rfl⟩ := assemble_encodes h
  exact (legal_iff_command _).mpr ⟨i, decode_encode hwf⟩

/-- Settles O9, on ten words. -/
theorem sampleWordsDecode : Obligations.SampleWordsDecode := by
  unfold Obligations.SampleWordsDecode
  decide

end Sys2Proof.Machine
end

section
/-! SUPPORT. The chunks of a byte string and the words they are written with; from these and the assembler, the statement O58. -/

namespace Sys2Proof.Machine

/-! ### The chunks of `update B` (30_encoding.md R90) -/

theorem chunk_length (bs : List Byte) (j : Nat) : (chunk bs j).length = min 8 (bs.length - 8 * j) := by
  simp [chunk]

theorem chunk_length_le (bs : List Byte) (j : Nat) : (chunk bs j).length ≤ 8 := by
  rw [chunk_length]
  exact Nat.min_le_left ..

theorem chunk_getD (bs : List Byte) (j : Nat) {i : Nat} (h : i < 8) : (chunk bs j).getD i 0 = bs.getD (8 * j + i) 0 := by
  simp [chunk, List.getD_eq_getElem?_getD, h]

/-- Behind the end of the byte string the value of a chunk has zero bytes. -/
theorem chunkWord_chunk (bs : List Byte) (j : Nat) :
    chunkWord (chunk bs j) =
      be64 (bs.getD (8 * j) 0) (bs.getD (8 * j + 1) 0) (bs.getD (8 * j + 2) 0) (bs.getD (8 * j + 3) 0)
        (bs.getD (8 * j + 4) 0) (bs.getD (8 * j + 5) 0) (bs.getD (8 * j + 6) 0) (bs.getD (8 * j + 7) 0) := by
  simp (disch := decide) only [chunkWord, chunk_getD, Nat.add_zero]

/-- The first chunks, joined, are the first bytes. -/
theorem flatMap_chunk (bs : List Byte) (n : Nat) : (List.range n).flatMap (chunk bs) = bs.take (8 * n) := by
  induction n with
  | zero => rfl
  | succ n ih => rw [List.range_succ, List.flatMap_append, ih, List.flatMap_singleton, chunk, Nat.mul_succ, List.take_add]

theorem chunkWord_eq_wordOfBytes (c : List Byte) : chunkWord c = wordOfBytes fun i => c.getD i 0 := rfl

/-- The lanes of a chunk's DATA_IN value, as many as the chunk has bytes, are its bytes (R82). -/
theorem lanes_chunkWord {c : List Byte} (h : c.length ≤ 8) : lanes (chunkWord c) c.length = c := by
  apply List.ext_getElem
  · simp [lanes]
  · intro i _ hi
    have hlane : lane (chunkWord c) i = c.getD i 0 := lane_wordOfBytes (fun i => c.getD i 0) ⟨i, by omega⟩
    simp [lanes, hlane, hi]

/-- Whatever the host's byte order, DATA_IN built from an array that holds a chunk is the chunk's value (20_memory.md R59). -/
theorem dataInOf_chunkBytes (o : HostByteOrder) (c : List Byte) : dataInOf o (chunkBytes c) = chunkWord c := by
  simp [dataInOf_eq, chunkBytes, chunkWord_eq_wordOfBytes]

/-! ### The expansions (30_encoding.md R90) -/

theorem absorbQ_inRange (v : WriteSource) {n : Nat} (h : n ≤ 8) :
    absorbQ v n = some [.wr 0x08 v, .wr 0x00 (.imm (0x0000000002000000 ||| BitVec.ofNat 64 n))] := by
  rw [absorbQ, cmd, assemble_absorb h]
  rfl

theorem absorbQ_outOfRange (v : WriteSource) {n : Nat} (h : 8 < n) : absorbQ v n = none := by
  rw [absorbQ, cmd, assemble_absorb_outOfRange h]
  rfl

theorem cmd_absorbB (b : Byte) :
    cmd (.absorbB b.toNat) = some [.wr 0x00 (.imm (0x0000000003000000 ||| b.setWidth 64))] := by
  have hb := b.isLt
  rw [cmd, assemble, assembleByte_inRange (by omega), BitVec.ofNat_toNat]
  rfl

/-- Chunk by chunk, `update B` writes DATA_IN and then the `absorb` with the chunk's length. -/
theorem update_eq (bs : List Byte) :
    update bs = some ((List.range ((bs.length + 7) / 8)).flatMap fun j =>
      [.wr 0x08 (.imm (chunkWord (chunk bs j))),
        .wr 0x00 (.imm (0x0000000002000000 ||| BitVec.ofNat 64 (chunk bs j).length))]) := by
  simp only [update, absorbQ_inRange _ (chunk_length_le bs _), joinAll_map_some]

theorem updateFromArray_eq_update (o : HostByteOrder) (bs : List Byte) : updateFromArray o bs = update bs := by
  simp only [updateFromArray, update, dataInOf_chunkBytes]

theorem updateB_eq (bs : List Byte) :
    updateB bs = some (bs.map fun b => .wr 0x00 (.imm (0x0000000003000000 ||| b.setWidth 64))) := by
  simp only [updateB, cmd_absorbB, joinAll_map_some]
  exact congrArg some List.map_eq_flatMap.symm

/-- The expansion of `sha384 B` around that of `update B`. -/
theorem sha384Program_eq {bs : List Byte} {u : List HostInstr} (h : update bs = some u) :
    sha384Program bs = some
      ([.wr 0x00 (.imm 0x0000000001000000)] ++ u ++ [.wr 0x00 (.imm 0x0000000004000000)] ++ readDigest) := by
  rw [sha384Program, h, List.append_assoc, List.append_assoc]
  rfl

/-- Settles O58: every piece of an expansion is a host instruction or an encoded command; the chunks are the byte string cut every 8
bytes, so that they join to it, and DATA_IN holds a chunk in its lanes under every host's byte order. -/
theorem pseudoInstructionsExpand : Obligations.PseudoInstructionsExpand := by
  refine ⟨fun c => rfl, fun v n => absorbQ_inRange v, fun v n => absorbQ_outOfRange v, fun l => rfl, rfl, fun bs =>
    ⟨?update, fun o => updateFromArray_eq_update o bs, updateB_eq bs, ⟨_, update_eq bs, sha384Program_eq (update_eq bs)⟩,
      ?chunks, fun j => ⟨chunk_length_le bs j, lanes_chunkWord (chunk_length_le bs j)⟩⟩⟩
  case update => simp only [update_eq, chunk_length, chunkWord_chunk]
  case chunks =>
    rw [flatMap_chunk]
    exact List.take_of_length_le (by omega)

end Sys2Proof.Machine
end

section
/-! SUPPORT. The bits of the logical functions and the rotation they are made of (40_compression.md R101 to R107): the statements
O24 and O25. -/

namespace Sys2Proof.Machine

/-- ROTR is the library's rotation, by any amount the datapath uses. -/
theorem rotr_eq_rotateRight (x : Word) {n : Nat} (hn : n < 64) : rotr x n = x.rotateRight n :=
  (BitVec.rotateRight_eq_rotateRightAux_of_lt hn).symm

@[simp] theorem shr_eq_ushiftRight (x : Word) (n : Nat) : shr x n = x >>> n := rfl

theorem getLsbD_rotr (x : Word) {n i : Nat} (hn : n < 64) (hi : i < 64) :
    (rotr x n).getLsbD i = x.getLsbD ((i + n) % 64) := by
  rw [rotr_eq_rotateRight x hn, BitVec.getLsbD_rotateRight, Nat.mod_eq_of_lt hn]
  by_cases h : i + n < 64
  · have hlow : i < 64 - n := by omega
    rw [Nat.mod_eq_of_lt h, Nat.add_comm i n]
    simp [hlow]
  · have hhigh : ¬i < 64 - n := by omega
    have hwrap : (i + n) % 64 = i - (64 - n) := by omega
    simp [hhigh, hi, hwrap]

theorem getLsbD_shr (x : Word) (n i : Nat) :
    (shr x n).getLsbD i = (decide (i + n < 64) && x.getLsbD (i + n)) := by
  rw [shr_eq_ushiftRight, BitVec.getLsbD_ushiftRight, Nat.add_comm n i]
  by_cases h : i + n < 64
  · simp [h]
  · simp [h, BitVec.getLsbD_of_ge x (i + n) (by omega)]

theorem getLsbD_ch (x y z : Word) {i : Nat} (hi : i < 64) :
    (ch x y z).getLsbD i = if x.getLsbD i then y.getLsbD i else z.getLsbD i := by
  simp only [ch, BitVec.getLsbD_xor, BitVec.getLsbD_and, BitVec.getLsbD_not, hi, decide_true, Bool.true_and]
  cases x.getLsbD i <;> simp

theorem getLsbD_maj (x y z : Word) (i : Nat) :
    (maj x y z).getLsbD i = decide (2 ≤ (x.getLsbD i).toNat + (y.getLsbD i).toNat + (z.getLsbD i).toNat) := by
  simp only [maj, BitVec.getLsbD_xor, BitVec.getLsbD_and]
  generalize x.getLsbD i = a, y.getLsbD i = b, z.getLsbD i = c
  revert a b c
  decide

/-- Settles O24: each function by its bit. -/
theorem bitwisePrimitivesBitByBit : Obligations.BitwisePrimitivesBitByBit := fun x y z n i _ hn hi =>
  ⟨getLsbD_rotr x (by omega) hi, getLsbD_shr x n i, getLsbD_ch x y z hi, getLsbD_maj x y z i⟩

/-- Settles O25: each sigma function by its rotations, the worked examples by evaluation. -/
theorem sigmaFunctions : Obligations.SigmaFunctions := by
  refine ⟨fun x => ⟨?smallSigma0, ?smallSigma1, ?bigSigma0, ?bigSigma1⟩, by decide, by decide, by decide, by decide⟩
  case smallSigma0 => simp [smallSigma0, rotr_eq_rotateRight]
  case smallSigma1 => simp [smallSigma1, rotr_eq_rotateRight]
  case bigSigma0 => simp [bigSigma0, rotr_eq_rotateRight]
  case bigSigma1 => simp [bigSigma1, rotr_eq_rotateRight]

end Sys2Proof.Machine
end

section
/-! SUPPORT. The schedule word by word and the 16-entry window beside it (40_compression.md R108 to R110): the statements O26 and
O27. -/

namespace Sys2Proof.Machine

theorem schedule_parse (blk : Block) (t : Fin 16) : (schedule blk)[t.val] = blockWord blk t := by
  rw [schedule_eq_expand blk 0 t.val (by omega) t.isLt]
  exact Vector.getElem_ofFn t.isLt

/-- An expansion's last word is the schedule adder's, on the words before it. -/
theorem expand_last (blk : Block) (n : Nat) :
    (expand blk (n + 1))[n + 16] = scheduleAdder (expand blk n)[n + 14] (expand blk n)[n + 9] (expand blk n)[n + 1]
      (expand blk n)[n] := by
  simp [expand, Vector.getElem_push, Nat.add_comm]

theorem schedule_recurrence (blk : Block) (n : Fin 64) :
    (schedule blk)[n.val + 16] = scheduleAdder (schedule blk)[n.val + 14] (schedule blk)[n.val + 9]
      (schedule blk)[n.val + 1] (schedule blk)[n.val] := by
  rw [schedule_eq_expand blk (n.val + 1) (n.val + 16) (by omega) (by omega), expand_last]
  iterate 4 rw [schedule_eq_expand blk n.val _ (by omega) (by omega)]

/-- Settles O26: the first words are the parse, every later one the last of some expansion. -/
theorem scheduleParsesAndRecurs : Obligations.ScheduleParsesAndRecurs := fun blk =>
  ⟨schedule_parse blk, schedule_recurrence blk⟩

/-- The entry a step overwrites, with the sixteen words from index `n` on in the window. -/
theorem getElem_windowStep_same (q : Vector Word 16) (n : Nat) :
    (windowStep q (16 + n))[(n + 16) % 16]'(by omega) =
      scheduleAdder (q[(n + 14) % 16]'(by omega)) (q[(n + 9) % 16]'(by omega)) (q[(n + 1) % 16]'(by omega))
        (q[n % 16]'(by omega)) := by
  have h2 : 16 + n - 2 = n + 14 := by omega
  have h7 : 16 + n - 7 = n + 9 := by omega
  have h15 : 16 + n - 15 = n + 1 := by omega
  simp [windowStep, h2, h7, h15]

theorem getElem_windowStep_of_ne (q : Vector Word 16) {t i : Nat} (hi : i < 16) (h : i ≠ t % 16) :
    (windowStep q t)[i] = q[i] :=
  Vector.getElem_set_ne (by omega) hi h.symm

/-- After the steps of rounds 16..15+n, the window holds the last sixteen words of the expansion, each in the entry of its
index mod 16 (40_compression.md R110). -/
theorem windowAfter_eq_expand (blk : Block) (n i : Nat) (hn : n ≤ i) (hi : i < 16 + n) :
    (windowAfter blk n)[i % 16]'(by omega) = (expand blk n)[i] := by
  induction n generalizing i with
  | zero => simp [windowAfter, expand, Nat.mod_eq_of_lt hi]
  | succ n ih =>
    rw [windowAfter]
    by_cases hlast : i = n + 16
    · subst hlast
      rw [getElem_windowStep_same, expand_last, ih (n + 14) (by omega) (by omega), ih (n + 9) (by omega) (by omega),
        ih (n + 1) (by omega) (by omega), ih n (by omega) (by omega)]
    · rw [getElem_windowStep_of_ne _ _ (by omega), ih i (by omega) (by omega)]
      exact (expand_prefix blk n 1 i (by omega)).symm

/-- Settles O27: the schedule's first words, up to W[t], are an expansion's, which the window follows. -/
theorem windowSuppliesTheSchedule : Obligations.WindowSuppliesTheSchedule := by
  intro blk t
  rw [windowWord, windowAfter_eq_expand blk _ _ (by omega) (by omega)]
  exact (schedule_eq_expand blk (t.val - 15) t.val (by omega) (by omega)).symm

end Sys2Proof.Machine
end

section
/-! SUPPORT. Adder trees, the rounds of the sequencer and the feed-forward (40_compression.md R100, R113 to R117): the statements O28
and O29. -/

namespace Sys2Proof.Machine

/-- A tree's output is the sum of its operands, whatever its shape. -/
theorem AdderTree.sum_eq_sum_operands (x : AdderTree) : x.sum = x.operands.sum := by
  induction x with
  | operand x => simp [AdderTree.sum, AdderTree.operands]
  | add l r ihl ihr => simp [AdderTree.sum, AdderTree.operands, ihl, ihr]

/-- A tree's output is the sum of its operands in any order. -/
theorem AdderTree.sum_eq_of_perm {x : AdderTree} {l : List Word} (h : x.operands.Perm l) : x.sum = l.sum :=
  x.sum_eq_sum_operands.trans h.sum_eq

theorem scheduleAdder_eq_sum (w2 w7 w15 w16 : Word) :
    scheduleAdder w2 w7 w15 w16 = [smallSigma1 w2, w7, smallSigma0 w15, w16].sum := by
  simp [scheduleAdder, add_assoc]

theorem t1Adder_eq_sum (h sigma choice k w : Word) : t1Adder h sigma choice k w = [h, sigma, choice, k, w].sum := by
  simp [t1Adder, add_assoc]

theorem t2Adder_eq_sum (sigma majority : Word) : t2Adder sigma majority = [sigma, majority].sum := by
  simp [t2Adder]

/-- Settles O28: an adder is the sum of its operands, and so is a tree over them in any order. -/
theorem roundIsAnyAdderTree : Obligations.RoundIsAnyAdderTree := by
  refine ⟨fun w2 w7 w15 w16 x hx => ?schedule, fun t v wt t1 t2 newA newE h1 h2 hA hE => ?round⟩
  case schedule => rw [scheduleAdder_eq_sum, AdderTree.sum_eq_of_perm hx]
  case round =>
    rw [roundStep, t1Adder_eq_sum, t2Adder_eq_sum, ← AdderTree.sum_eq_of_perm h1, ← AdderTree.sum_eq_of_perm h2,
      AdderTree.sum_eq_of_perm hA, AdderTree.sum_eq_of_perm hE]
    simp

/-- The working variables after any rounds, on the schedule the datapath was loaded with: no round writes W. -/
theorem foldl_round_work (l : List (Fin 80)) (d : Datapath) :
    (l.foldl Datapath.round d).work = l.foldl (fun v t => roundStep t v d.w[t]) d.work := by
  induction l generalizing d with
  | nil => rfl
  | cons t l ih => exact ih (d.round t)

/-- Settles O29: the sequencer changes its working variables by the rounds alone. -/
theorem compressIsEightyRounds : Obligations.CompressIsEightyRounds := fun h blk =>
  ⟨(Datapath.run h blk).work, foldl_round_work _ (Datapath.load h blk), rfl⟩

end Sys2Proof.Machine
end
section
/-! SUPPORT. The primes whose cube roots the round constants are made of, and the constants against them (40_compression.md R111):
the statement O4. -/

namespace Sys2Proof.Machine

/-- No number from 2 up to `m - 1` divides `p`. -/
def noDivisorBelow (m p : Nat) : Bool := (List.range m).all fun d => decide (d < 2) || p % d != 0

theorem noDivisorBelow_iff {m p : Nat} : noDivisorBelow m p = true ↔ ∀ d, 2 ≤ d → d < m → ¬d ∣ p := by
  simp only [noDivisorBelow, List.all_eq_true, List.mem_range, Bool.or_eq_true, decide_eq_true_iff, bne_iff_ne,
    Nat.dvd_iff_mod_eq_zero]
  exact forall_congr' fun d => by omega

/-- The model's trial division decides primality. -/
theorem isPrimeNumber_iff_prime {p : Nat} : isPrimeNumber p = true ↔ p.Prime := by
  change (decide (2 ≤ p) && noDivisorBelow p p) = true ↔ _
  rw [Bool.and_eq_true, decide_eq_true_iff, noDivisorBelow_iff, Nat.prime_def_lt']

/-- Trial division may stop at the square root. -/
theorem isPrimeNumber_eq_of_lt_sq {p m : Nat} (hm : p < m * m) :
    isPrimeNumber p = (decide (2 ≤ p) && noDivisorBelow (min p m) p) := by
  rw [Bool.eq_iff_iff, isPrimeNumber_iff_prime, Bool.and_eq_true, decide_eq_true_iff, noDivisorBelow_iff]
  constructor
  · intro hp
    exact ⟨hp.two_le, fun d h2 hd => (Nat.prime_def_lt'.mp hp).2 d h2 (by omega)⟩
  · rintro ⟨h2, hd⟩
    refine Nat.prime_def_le_sqrt.mpr ⟨h2, fun d hd2 hsqrt => hd d hd2 (lt_min ?_ ?_)⟩
    · exact hsqrt.trans_lt (Nat.sqrt_lt_self h2)
    · exact hsqrt.trans_lt (Nat.sqrt_lt.mpr hm)

/-- The first eighty primes, the "prime" column of 40_compression.md R111. -/
def firstEightyPrimes : List Nat :=
  [2, 3, 5, 7, 11, 13, 17, 19, 23, 29, 31, 37, 41, 43, 47, 53, 59, 61, 67, 71,
   73, 79, 83, 89, 97, 101, 103, 107, 109, 113, 127, 131, 137, 139, 149, 151, 157, 163, 167, 173,
   179, 181, 191, 193, 197, 199, 211, 223, 227, 229, 233, 239, 241, 251, 257, 263, 269, 271, 277, 281,
   283, 293, 307, 311, 313, 317, 331, 337, 347, 349, 353, 359, 367, 373, 379, 383, 389, 397, 401, 409]

theorem primeNumbers_eq : primeNumbers = firstEightyPrimes := by
  have htrial : ∀ p ∈ List.range 410, isPrimeNumber p = (decide (2 ≤ p) && noDivisorBelow (min p 21) p) := fun p hp =>
    isPrimeNumber_eq_of_lt_sq (by have := List.mem_range.mp hp; omega)
  rw [primeNumbers, List.filter_congr htrial]
  decide

/-- The integer part of the cube root of a number below 8³. -/
def cubeRootFloor (p : Nat) : Nat := Nat.findGreatest (fun q => q ^ 3 ≤ p) 7

/-- Settles O4: with the integer parts of the roots at hand, eighty pairs of inequalities on numbers. -/
theorem roundConstantsAreCubeRootFractions : Obligations.RoundConstantsAreCubeRootFractions := by
  intro t
  refine ⟨cubeRootFloor (firstEightyPrimes.getD t.val 0), ?_⟩
  rw [primeNumbers_eq]
  revert t
  decide

end Sys2Proof.Machine
end

section
/-! SUPPORT. What the commands do to the engine, in both phases and on both sides of the length limit (41_commands.md R130 to R138);
from these, the statements O10, O11, O14 to O18, O21 and O23. -/

namespace Sys2Proof.Machine

/-- A command with a word of its own is decoded from that word alone. -/
theorem decode_command_iff_eq {i : Instr} {c : Word} (hwf : WellFormed i) (hc : encode i = c) (v : Word) :
    decode v = .command i ↔ v = c := by
  rw [decodeInvertsEncode, and_iff_right hwf, hc, eq_comm]

theorem performWord_command {v : Word} {i : Instr} (h : decode v = .command i) (s : State) :
    performWord v s = exec i s := by
  simp only [performWord, h]

theorem performWord_illegal {v : Word} {why : IllegalWord} (h : decode v = .illegal why) (s : State) :
    performWord v s = .next (s.raiseError .illegalCmd) := by
  simp only [performWord, h, execIllegal]

/-! ### The step (41_commands.md R130) -/

theorem runs_withPending {v : Word} {i : Instr} (h : decode v = .command i) (s : State) : Runs i (s.withPending v) :=
  ⟨⟨rfl, .inr ⟨s.inputs, rfl⟩⟩, v, rfl, h⟩

theorem decode_of_decodeTableWord {nbits w : Nat} {i : Instr} (h : decodeTableWord nbits w = some i) :
    decode (tableWord nbits w) = .command i := by
  unfold decodeTableWord at h
  split at h
  · cases h
    assumption
  · cases h

/-- Settles O10: the step performs the pending word, which is the decoded command or the illegal one. -/
theorem stepRunsTheDecodedCommand : Obligations.StepRunsTheDecodedCommand := by
  refine ⟨fun s t i ⟨hn, v, hv, hd⟩ ht => ?_, fun s t v why hn hv hd ht => ?_, fun s w i h => ?_⟩
  · rw [step_performs hn hv, performWord_command hd, ht]
    rfl
  · cases ht
    rw [step_performs hn hv, performWord_illegal hd]
    rfl
  · exact runs_withPending (decode_of_decodeTableWord h) s

/-- Settles O11: an illegal word decodes to no command, and the illegal command is an error entry. -/
theorem illegalWordOnlyRecordsTheError : Obligations.IllegalWordOnlyRecordsTheError := by
  intro s v hv
  obtain ⟨why, hd⟩ := (decoderFollowsLegality v).1 hv
  exact performWord_illegal hd s

/-! ### nop and init (41_commands.md R133, R134) -/

/-- Settles O14: the one word of nop, and nop's equation. -/
theorem nopLeavesTheStateUnchanged : Obligations.NopLeavesTheStateUnchanged :=
  ⟨decode_command_iff_eq rfl rfl, exec_nop⟩

theorem absorbed_construct (s : State) : Absorbed [] s.construct :=
  ⟨rfl, rfl, rfl, rfl, fun i hi => absurd hi (Nat.not_lt_zero i)⟩

/-- Settles O15: the one word of init, and init's equation with the IV written out. -/
theorem initWritesTheListedElements : Obligations.InitWritesTheListedElements := by
  refine ⟨decode_command_iff_eq rfl rfl, exec_init, fun s t h => ?_, fun s => ⟨_, exec_init s, absorbed_construct s⟩⟩
  cases h
  rfl

/-! ### Bytes absorbed (41_commands.md R131, R135, R136) -/

section
variable {s : State} {ms : List Byte}

theorem State.absorbBytes_buf_frame (s : State) (ms : List Byte) (j : Fin 128)
    (hj : ∀ i, i < ms.length → (s.bufLen.toNat + i) % 128 ≠ j.val) : (s.absorbBytes ms).buf[j] = s.buf[j] := by
  rcases s.absorbBytes_cases ms with ⟨_, h⟩ | ⟨_, _, h⟩ | ⟨_, _, h⟩ <;> rw [h]
  · rfl
  · rfl
  · exact absorbLoop_buf_frame ms s j hj

variable (hf : s.final = false) (hl : s.len.toNat + 8 * ms.length < 2 ^ 128)
include hf hl

theorem State.absorbBytes_bufLen : (s.absorbBytes ms).bufLen.toNat = (s.bufLen.toNat + ms.length) % 128 := by
  rw [State.absorbBytes_accepted hf hl]
  exact State.absorbLoop_bufLen ms s

theorem State.absorbBytes_len : (s.absorbBytes ms).len.toNat = s.len.toNat + 8 * ms.length := by
  rw [State.absorbBytes_accepted hf hl, State.addLen_toNat (by simpa using hl), State.absorbLoop_len]

theorem State.absorbBytes_room (hb : s.bufLen.toNat + ms.length < 128) :
    (s.absorbBytes ms).h = s.h ∧ (s.absorbBytes ms).dp = s.dp ∧
      bufferedBytes (s.absorbBytes ms) = bufferedBytes s ++ ms := by
  rw [State.absorbBytes_accepted hf hl]
  exact absorbLoop_room ms s hb

theorem State.absorbBytes_cross (hb : 128 ≤ s.bufLen.toNat + ms.length) (h8 : ms.length ≤ 8) :
    (s.absorbBytes ms).h = compress s.h (blockOf (bufferedBytes s ++ ms) 0) ∧
      bufferedBytes (s.absorbBytes ms) = (bufferedBytes s ++ ms).drop 128 := by
  rw [State.absorbBytes_accepted hf hl]
  exact absorbLoop_cross s ms hb h8

theorem State.absorbBytes_frame :
    (s.absorbBytes ms).final = false ∧ (s.absorbBytes ms).err = s.err ∧ (s.absorbBytes ms).busy = s.busy ∧
      (s.absorbBytes ms).pend = s.pend ∧ (s.absorbBytes ms).dataIn = s.dataIn ∧
      (s.absorbBytes ms).digest = s.digest ∧ SameQueues s (s.absorbBytes ms) := by
  rw [State.absorbBytes_accepted hf hl]
  simp [SameQueues, hf]

theorem State.absorbBytes_buf_at (h8 : ms.length ≤ 8) (i : Nat) (hi : i < ms.length) :
    (s.absorbBytes ms).buf[(s.bufLen.toNat + i) % 128]'(Nat.mod_lt _ (by decide)) = ms[i] := by
  rw [← absorbLoop_buf_at ms s h8 i hi]
  simp only [State.absorbBytes_accepted hf hl, State.addLen_buf]

end

/-- Settles O16: absorb n is AbsorbBytes on the first n lanes; what that does by the phase, the length and the room left. -/
theorem absorbTakesTheFirstLanes : Obligations.AbsorbTakesTheFirstLanes := by
  intro s n hn
  have hlanes : (lanes s.dataIn n.toNat).length = n.toNat := lanes_length ..
  rw [exec_absorb_legal hn]
  refine ⟨decode_command_iff_eq (decide_eq_true hn) (encode_absorb n), fun hf hl => ⟨_, rfl, ?_⟩, fun hf => ?_,
    fun hf hl => ?_⟩
  · rw [← hlanes] at hl
    have hbuf := State.absorbBytes_bufLen hf hl
    have hlen := State.absorbBytes_len hf hl
    have hroom := State.absorbBytes_room hf hl
    have hcross := State.absorbBytes_cross hf hl
    rw [hlanes] at hbuf hlen hroom hcross
    exact ⟨hbuf, hlen, hroom, fun hb => hcross hb hn, State.absorbBytes_frame hf hl⟩
  · rw [State.absorbBytes_finalized _ hf]
    rfl
  · rw [State.absorbBytes_overflow hf (hlanes.symm ▸ hl)]
    rfl

/-! ### What AbsorbBytes neither reads nor writes is carried along -/

/-- The elements that the loop of AbsorbBytes reads and writes, as given (41_commands.md R131). -/
def State.withMessage (s : State) (h : HashRegs) (b : Block) (n : BitVec 7) (d : Datapath) : State :=
  { s with h := h, buf := b, bufLen := n, dp := d }

/-- `f` changes nothing that the loop of AbsorbBytes reads or writes, and does not read it. -/
def CarriedByAbsorb (f : State → State) : Prop :=
  ∀ s h b n d, f (s.withMessage h b n d) = (f s).withMessage h b n d

section
variable (s : State) (h : HashRegs) (b : Block) (n : BitVec 7) (d : Datapath)

theorem State.putByte_withMessage (m : Byte) :
    (s.withMessage h b n d).putByte m = s.withMessage h (b.set n.toNat m n.isLt) n d := rfl

theorem State.compressBuf_withMessage :
    (s.withMessage h b n d).compressBuf = s.withMessage (compress h b) b n (Datapath.run h b) := rfl

theorem State.withBufLen_withMessage (n' : BitVec 7) :
    (s.withMessage h b n d).withBufLen n' = s.withMessage h b n' d := rfl

end

/-- What one byte absorbed leaves in those elements does not depend on the others, which it leaves alone. -/
theorem State.absorbByte_withMessage (u s : State) (m : Byte) :
    (u.withMessage s.h s.buf s.bufLen s.dp).absorbByte m =
      u.withMessage (s.absorbByte m).h (s.absorbByte m).buf (s.absorbByte m).bufLen (s.absorbByte m).dp := by
  by_cases h : s.bufLen.toNat + 1 = 128
  · rw [State.absorbByte_full m h, State.absorbByte_full (s := u.withMessage _ _ _ _) m h, State.putByte_withMessage,
      State.compressBuf_withMessage, State.withBufLen_withMessage]
    simp
  · rw [State.absorbByte_room m h, State.absorbByte_room (s := u.withMessage _ _ _ _) m h, State.putByte_withMessage,
      State.withBufLen_withMessage]
    rfl

section
variable {f : State → State} (hf : CarriedByAbsorb f)
include hf

theorem CarriedByAbsorb.absorbByte (s : State) (m : Byte) : (f s).absorbByte m = f (s.absorbByte m) :=
  calc (f s).absorbByte m
      = ((f s).withMessage s.h s.buf s.bufLen s.dp).absorbByte m := congrArg (·.absorbByte m) (hf s _ _ _ _)
    _ = f (s.withMessage (s.absorbByte m).h (s.absorbByte m).buf (s.absorbByte m).bufLen (s.absorbByte m).dp) := by
      rw [State.absorbByte_withMessage, hf]
    _ = f (s.absorbByte m) := congrArg f (State.absorbByte_withMessage s s m).symm

theorem CarriedByAbsorb.absorbLoop (ms : List Byte) : ∀ s : State, (f s).absorbLoop ms = f (s.absorbLoop ms) := by
  induction ms with
  | nil => exact fun _ => rfl
  | cons m ms ih =>
    intro s
    rw [State.absorbLoop_cons, hf.absorbByte, ih, State.absorbLoop_cons]

end

theorem State.absorbBytes_withDataIn (s : State) (v : Word) (ms : List Byte) :
    (s.withDataIn v).absorbBytes ms = (s.absorbBytes ms).withDataIn v := by
  rcases s.absorbBytes_cases ms with ⟨hf, h⟩ | ⟨hf, hl, h⟩ | ⟨hf, hl, h⟩ <;> rw [h]
  · exact State.absorbBytes_finalized (s := s.withDataIn v) ms hf
  · exact State.absorbBytes_overflow (s := s.withDataIn v) hf hl
  · rw [State.absorbBytes_accepted (s := s.withDataIn v) hf hl]
    exact congrArg (·.addLen ms.length) (CarriedByAbsorb.absorbLoop (f := (·.withDataIn v)) (fun _ _ _ _ _ => rfl) ms s)

/-- Settles O17: absorb.b is AbsorbBytes on its one byte, which carries DATA_IN along. -/
theorem absorbByteTakesTheImmediate : Obligations.AbsorbByteTakesTheImmediate := by
  intro s m
  rw [exec_absorbB]
  refine ⟨decode_command_iff_eq rfl (encode_absorbB m), fun hf hl => ⟨_, rfl, State.absorbBytes_bufLen hf hl,
    State.absorbBytes_len hf hl, fun hb => ?room, fun hb => ?cross, State.absorbBytes_frame hf hl⟩,
    fun hf => congrArg _ (State.absorbBytes_finalized [m] hf),
    fun hf hl => congrArg _ (State.absorbBytes_overflow hf hl), fun v t ht => ?dataIn⟩
  case room => exact State.absorbBytes_room hf hl (Nat.add_lt_add_right hb 1)
  case cross =>
    obtain ⟨hh, hbuffered⟩ := State.absorbBytes_cross (ms := [m]) hf hl (Nat.le_of_eq (by rw [hb]; rfl)) (by simp)
    refine ⟨hh, hbuffered.trans (List.drop_of_length_le ?_)⟩
    simp [bufferedBytes_length, hb]
  case dataIn =>
    cases ht
    exact congrArg _ (State.absorbBytes_withDataIn s v [m])

/-- Settles O21: a count above 8 is not well formed, its encoding is one of seven illegal words, and its effect is an error entry. -/
theorem absorbAboveEightIsIllegal : Obligations.AbsorbAboveEightIsIllegal := by
  intro s n hn
  refine ⟨fun v hv => ?_, ?_, exec_absorb_illegal (Nat.not_le_of_lt hn) s⟩
  · exact Nat.not_le_of_lt hn (decode_absorb_count hv)
  · revert n
    decide

/-- Settles O23: the frame of AbsorbBytes and what it stores; the other commands of the statement leave BUF as it is. -/
theorem bufferFrame : Obligations.BufferFrame := by
  refine ⟨fun s t n ht j hj => ?absorbKeeps, fun s t n hn hf hl ht i hi => ?absorbStores, fun s t m ht j hj => ?byteKeeps,
    fun s t m hf hl ht => ?byteStores, fun s t ht => ?nop, fun s t ht => ?init, fun s t hf ht => ?final⟩
  case absorbKeeps =>
    by_cases hn : n.toNat ≤ 8
    · rw [exec_absorb_legal hn] at ht
      cases ht
      exact s.absorbBytes_buf_frame _ j (by rwa [lanes_length])
    · rw [exec_absorb_illegal hn] at ht
      cases ht
      rfl
  case absorbStores =>
    rw [exec_absorb_legal hn] at ht
    cases ht
    have hlanes : (lanes s.dataIn n.toNat).length = n.toNat := lanes_length ..
    rw [State.absorbBytes_buf_at hf (hlanes.symm ▸ hl) (hlanes.symm ▸ hn) i (hlanes.symm ▸ hi)]
    simp [lanes, lane]
  case byteKeeps =>
    cases ht
    refine s.absorbBytes_buf_frame [m] j fun i hi => ?_
    have := s.bufLen.isLt
    simp only [List.length_singleton] at hi
    omega
  case byteStores =>
    cases ht
    have hat := State.absorbBytes_buf_at (ms := [m]) hf hl (by simp) 0 (by simp)
    simpa only [Nat.add_zero, Nat.mod_eq_of_lt s.bufLen.isLt, List.getElem_cons_zero] using hat
  case nop | init => cases ht; rfl
  case final => rw [exec_final_again hf] at ht; cases ht; rfl

/-! ### Pad (41_commands.md R132) -/

/-- The last block of a message whose length field fits behind the buffered bytes. -/
def onePadBlock (s : State) : Block := Vector.ofFn fun i =>
  if i.val < s.bufLen.toNat then s.buf[i] else if i.val = s.bufLen.toNat then 0x80
  else if i.val < 112 then 0x00 else s.len.extractLsb' (8 * (127 - i.val)) 8

/-- The block before the last where the length field does not fit. -/
def firstPadBlock (s : State) : Block := Vector.ofFn fun i =>
  if i.val < s.bufLen.toNat then s.buf[i] else if i.val = s.bufLen.toNat then 0x80 else 0x00

/-- The last block where the length field does not fit behind the buffered bytes. -/
def lengthPadBlock (len : BitVec 128) : Block := Vector.ofFn fun i =>
  if i.val < 112 then 0x00 else len.extractLsb' (8 * (127 - i.val)) 8

/-- Byte `j` of the length field, by its place in the block. -/
theorem byteBE_length (len : BitVec 128) {i : Nat} (h : 112 ≤ i) :
    byteBE len 16 (i - 112) = len.extractLsb' (8 * (127 - i)) 8 := by
  rw [byteBE, show 16 - 1 - (i - 112) = 127 - i by omega]

theorem storeLength_onePad {s : State} (h : s.bufLen.toNat ≤ 111) :
    storeLength s.len (fillZero (s.bufLen.toNat + 1) 112 (s.putByte 0x80).buf) = onePadBlock s := by
  refine Vector.ext fun i hi => ?_
  rw [storeLength_get]
  simp only [onePadBlock, Vector.getElem_ofFn, Fin.getElem_fin]
  split
  · rw [byteBE_length _ ‹_›, if_neg (by omega), if_neg (by omega), if_neg (by omega)]
  · rw [fillZero_get, State.putByte_buf, Vector.getElem_set]
    grind

theorem fillZero_firstPad (s : State) :
    fillZero (s.bufLen.toNat + 1) 128 (s.putByte 0x80).buf = firstPadBlock s := by
  refine Vector.ext fun i hi => ?_
  rw [fillZero_get, State.putByte_buf, Vector.getElem_set]
  simp only [firstPadBlock, Vector.getElem_ofFn, Fin.getElem_fin]
  grind

/-- Zeros below the length field leave nothing of the block that was there. -/
theorem storeLength_lengthPad (len : BitVec 128) (blk : Block) : storeLength len (fillZero 0 112 blk) = lengthPadBlock len := by
  refine Vector.ext fun i hi => ?_
  rw [storeLength_get]
  simp only [lengthPadBlock, Vector.getElem_ofFn]
  split
  · rw [byteBE_length _ ‹_›, if_neg (by omega)]
  · rw [fillZero_get, if_pos (by omega), if_pos (by omega)]

theorem State.pad_h_one {s : State} (h : s.bufLen.toNat ≤ 111) : s.pad.h = compress s.h (onePadBlock s) := by
  rw [State.pad_one h, State.padLast_h, State.putByte_len, storeLength_onePad h, State.putByte_h]

theorem State.pad_h_two {s : State} (h : 112 ≤ s.bufLen.toNat) :
    s.pad.h = compress (compress s.h (firstPadBlock s)) (lengthPadBlock s.len) := by
  rw [State.pad_two h, State.padLast_h, State.padFirst_h, fillZero_firstPad, storeLength_lengthPad, State.padFirst_len,
    State.putByte_len, State.putByte_h]

/-- Settles O18: the one word of final; a first final is Pad, in one block or two, and the latch. -/
theorem finalPadsAndLatches : Obligations.FinalPadsAndLatches := by
  refine ⟨decode_command_iff_eq rfl rfl, fun s => ⟨exec_final_again, fun hf => ⟨_, exec_final_first hf, State.pad_h_one,
    State.pad_h_two, rfl, rfl, ?_⟩⟩⟩
  simp [SameQueues]

end Sys2Proof.Machine
end

section
/-! SUPPORT. The absorbed message: AbsorbBytes extends it and does not see how it was cut, and Pad completes its last blocks
(41_commands.md R131, R132, R140, R142); from these, the statements O31 to O34. -/

namespace Sys2Proof.Machine

/-! ### Chunks (41_commands.md R140) -/

theorem State.absorbLoop_addLen (s : State) (n : Nat) (ms : List Byte) :
    (s.addLen n).absorbLoop ms = (s.absorbLoop ms).addLen n :=
  CarriedByAbsorb.absorbLoop (f := (·.addLen n)) (fun _ _ _ _ _ => rfl) ms s

theorem State.addLen_addLen (s : State) (m n : Nat) : (s.addLen m).addLen n = s.addLen (m + n) := by
  simp only [State.addLen, BitVec.add_assoc, ← BitVec.ofNat_add, Nat.mul_add]

theorem State.absorbBytes_nil {s : State} (hf : s.final = false) : s.absorbBytes [] = s := by
  rw [State.absorbBytes_accepted hf (by simpa using s.len.isLt), State.absorbLoop_nil]
  exact congrArg (fun l => { s with len := l }) (BitVec.add_zero s.len)

/-- Two chunks absorbed one after the other are one chunk. -/
theorem State.absorbBytes_append {s : State} {xs ys : List Byte} (hf : s.final = false)
    (hl : s.len.toNat + 8 * (xs ++ ys).length < 2 ^ 128) :
    s.absorbBytes (xs ++ ys) = (s.absorbBytes xs).absorbBytes ys := by
  have hl' := hl
  rw [List.length_append] at hl'
  have hlx : s.len.toNat + 8 * xs.length < 2 ^ 128 := by omega
  have hly : (s.absorbBytes xs).len.toNat + 8 * ys.length < 2 ^ 128 := by
    rw [State.absorbBytes_len hf hlx]
    omega
  rw [State.absorbBytes_accepted (State.absorbBytes_frame hf hlx).1 hly, State.absorbBytes_accepted hf hlx,
    State.absorbBytes_accepted hf hl, State.absorbLoop_addLen, State.addLen_addLen, State.absorbLoop_append,
    List.length_append]

/-- Chunks absorbed one by one are their bytes absorbed at once. -/
theorem foldl_absorbBytes (cs : List (List Byte)) : ∀ s : State, s.final = false →
    s.len.toNat + 8 * cs.flatten.length < 2 ^ 128 → cs.foldl State.absorbBytes s = s.absorbBytes cs.flatten := by
  induction cs with
  | nil => exact fun s hf _ => (State.absorbBytes_nil hf).symm
  | cons c cs ih =>
    intro s hf hl
    rw [List.flatten_cons] at hl ⊢
    have hlen := hl
    rw [List.length_append] at hlen
    have hlc : s.len.toNat + 8 * c.length < 2 ^ 128 := by omega
    rw [State.absorbBytes_append hf hl, List.foldl_cons, ih _ (State.absorbBytes_frame hf hlc).1]
    rw [State.absorbBytes_len hf hlc]
    omega

/-- Settles O33: either split leaves what the whole sequence leaves. -/
theorem chunkInvariance : Obligations.ChunkInvariance := by
  intro s cs ds h hf hl
  rw [foldl_absorbBytes cs s hf hl, foldl_absorbBytes ds s hf (h ▸ hl), h]

/-! ### The absorbed message (41_commands.md R131) -/

/-- With a byte written at BUF_LEN, BUF holds the tail of the message and that byte. -/
theorem Absorbed.absorbByte_buf {msg : List Byte} {s : State} (hs : Absorbed msg s) (m : Byte) (i : Fin 128)
    (hi : i.val ≤ msg.length % 128) :
    (s.absorbByte m).buf[i] = (msg ++ [m]).getD (128 * (msg.length / 128) + i.val) 0 := by
  obtain ⟨_, _, hbuf, _, htail⟩ := hs
  simp only [Fin.getElem_fin, State.absorbByte_buf, Vector.getElem_set, hbuf]
  split
  case isTrue h =>
    rw [List.getD_append_right _ _ _ _ (by omega), show 128 * (msg.length / 128) + i.val - msg.length = 0 by omega]
    rfl
  case isFalse h =>
    rw [List.getD_append _ _ _ _ (by omega)]
    exact htail i (by omega)

/-- With the 128th byte the next block of the message is complete, and H takes it in. -/
theorem Absorbed.absorbByte_h {msg : List Byte} {s : State} (hs : Absorbed msg s) (m : Byte) :
    (s.absorbByte m).h = chain (msg ++ [m]) ((msg ++ [m]).length / 128) := by
  have hblock := hs.absorbByte_buf m
  obtain ⟨_, _, hbuf, hh, _⟩ := hs
  have hchain := chain_append msg [m] (msg.length / 128) (by omega)
  rw [State.absorbByte_h, List.length_append, List.length_singleton]
  split
  case isTrue hfull =>
    have hnext : s.buf.set s.bufLen.toNat m s.bufLen.isLt = blockOf (msg ++ [m]) (msg.length / 128) := by
      refine Vector.ext fun i hi => ?_
      rw [← State.absorbByte_buf, blockOf, Vector.getElem_ofFn]
      exact hblock ⟨i, hi⟩ (by dsimp only; omega)
    rw [show (msg.length + 1) / 128 = msg.length / 128 + 1 by omega, chain, hchain, hnext, hh]
  case isFalse hroom =>
    rw [show (msg.length + 1) / 128 = msg.length / 128 by omega, hchain, hh]

theorem Absorbed.absorbByte {msg : List Byte} {s : State} (hs : Absorbed msg s) (m : Byte)
    (hl : 8 * (msg.length + 1) < 2 ^ 128) : Absorbed (msg ++ [m]) (s.absorbBytes [m]) := by
  have hh := hs.absorbByte_h m
  have hblock := hs.absorbByte_buf m
  obtain ⟨hf, hlen, hbuf, _, _⟩ := hs
  have hls : s.len.toNat + 8 * [m].length < 2 ^ 128 := by
    rw [List.length_singleton]
    omega
  have heq : s.absorbBytes [m] = (s.absorbByte m).addLen 1 := State.absorbBytes_accepted hf hls
  refine ⟨(State.absorbBytes_frame hf hls).1, ?_, ?_, by rwa [heq], fun i hi => ?_⟩
  · rw [State.absorbBytes_len hf hls, List.length_append, List.length_singleton]
    omega
  · rw [State.absorbBytes_bufLen hf hls, List.length_append, List.length_singleton]
    omega
  · rw [List.length_append, List.length_singleton] at hi ⊢
    rw [heq, State.addLen_buf, hblock i (by omega), show (msg.length + 1) / 128 = msg.length / 128 by omega]

/-- Bytes absorbed below the length limit extend the absorbed message. -/
theorem Absorbed.absorbBytes (ms : List Byte) : ∀ {msg : List Byte} {s : State}, Absorbed msg s →
    8 * (msg.length + ms.length) < 2 ^ 128 → Absorbed (msg ++ ms) (s.absorbBytes ms) := by
  induction ms with
  | nil =>
    intro msg s hs _
    rwa [State.absorbBytes_nil hs.1, List.append_nil]
  | cons m ms ih =>
    intro msg s hs hl
    have ⟨hf, hlen, _⟩ := hs
    rw [List.length_cons] at hl
    have happend : s.absorbBytes (m :: ms) = (s.absorbBytes [m]).absorbBytes ms :=
      State.absorbBytes_append (xs := [m]) hf (by simp; omega)
    rw [List.append_cons, happend]
    exact ih (hs.absorbByte m (by omega)) (by simp; omega)

/-- Settles O31: absorb n and absorb.b are AbsorbBytes on their bytes. -/
theorem absorbExtendsTheMessage : Obligations.AbsorbExtendsTheMessage := by
  refine ⟨fun msg s n hs hn hl => ⟨_, exec_absorb_legal hn s, hs.absorbBytes _ (by rwa [lanes_length])⟩,
    fun msg s m hs hl => ⟨_, exec_absorbB m s, hs.absorbByte m hl⟩⟩

/-! ### The padded message (41_commands.md R132) -/

/-- Settles O34: the zeros fill up the last block, and are fewer than a block. -/
theorem paddedLengthIsLeast : Obligations.PaddedLengthIsLeast := by
  intro msg
  rw [padMessage_length, padZeros]
  exact ⟨by omega, by omega, fun m _ _ => by omega⟩

section
variable {msg : List Byte} {s : State} (hs : Absorbed msg s)
include hs

theorem Absorbed.len_eq : s.len = BitVec.ofNat 128 (8 * msg.length) := by
  obtain ⟨_, hlen, _⟩ := hs
  rw [← hlen, BitVec.ofNat_toNat, BitVec.setWidth_eq]

/-- The whole blocks of the message are the first blocks of the padded message. -/
theorem Absorbed.h_eq : s.h = chain (padMessage msg) (msg.length / 128) := by
  obtain ⟨_, _, _, hh, _⟩ := hs
  rw [hh, chain_padMessage]

/-- With room for the length field the block that Pad builds is the last of the padded message. -/
theorem Absorbed.onePadBlock_eq (h : s.bufLen.toNat ≤ 111) :
    onePadBlock s = blockOf (padMessage msg) (msg.length / 128) := by
  have hlen := hs.len_eq
  obtain ⟨_, _, hbuf, _, htail⟩ := hs
  have hzeros : padZeros msg.length = 111 - msg.length % 128 := by
    rw [padZeros]
    omega
  refine Vector.ext fun i hi => ?_
  rw [blockOf, Vector.getElem_ofFn, padMessage_getD _ _ (by rw [padMessage_length]; omega)]
  simp only [onePadBlock, Vector.getElem_ofFn, hbuf]
  refine ite_congr (propext (by omega)) (fun _ => htail ⟨i, hi⟩ (by dsimp only; omega)) fun _ =>
    ite_congr (propext (by omega)) (fun _ => rfl) fun _ => ite_congr (propext (by omega)) (fun _ => rfl) fun _ => ?_
  rw [hlen, ← byteBE_length _ (by omega)]
  congr 1
  omega

theorem Absorbed.padZeros_two (h : 112 ≤ s.bufLen.toNat) : padZeros msg.length = 239 - msg.length % 128 := by
  obtain ⟨_, _, hbuf, _⟩ := hs
  rw [padZeros]
  omega

theorem Absorbed.firstPadBlock_eq (h : 112 ≤ s.bufLen.toNat) :
    firstPadBlock s = blockOf (padMessage msg) (msg.length / 128) := by
  have hzeros := hs.padZeros_two h
  obtain ⟨_, _, hbuf, _, htail⟩ := hs
  refine Vector.ext fun i hi => ?_
  rw [blockOf, Vector.getElem_ofFn, padMessage_getD _ _ (by rw [padMessage_length]; omega)]
  simp only [firstPadBlock, Vector.getElem_ofFn, hbuf]
  refine ite_congr (propext (by omega)) (fun _ => htail ⟨i, hi⟩ (by dsimp only; omega)) fun _ =>
    ite_congr (propext (by omega)) (fun _ => rfl) fun _ => ?_
  exact (if_pos (by omega)).symm

theorem Absorbed.lengthPadBlock_eq (h : 112 ≤ s.bufLen.toNat) :
    lengthPadBlock s.len = blockOf (padMessage msg) (msg.length / 128 + 1) := by
  have hzeros := hs.padZeros_two h
  have hlen := hs.len_eq
  obtain ⟨_, _, hbuf, _, _⟩ := hs
  refine Vector.ext fun i hi => ?_
  rw [blockOf, Vector.getElem_ofFn, padMessage_getD _ _ (by rw [padMessage_length]; omega), if_neg (by omega),
    if_neg (by omega)]
  simp only [lengthPadBlock, Vector.getElem_ofFn]
  refine ite_congr (propext (by omega)) (fun _ => rfl) fun _ => ?_
  rw [hlen, ← byteBE_length _ (by omega)]
  congr 1
  omega

/-- Pad takes H through the last block or the last two blocks of the padded message. -/
theorem Absorbed.pad_h : s.pad.h = chain (padMessage msg) ((padMessage msg).length / 128) := by
  have ⟨_, _, hbuf, _⟩ := hs
  rw [padMessage_length, padZeros]
  by_cases h : s.bufLen.toNat ≤ 111
  · rw [State.pad_h_one h, hs.onePadBlock_eq h, hs.h_eq, ← chain]
    congr 1
    omega
  · have h' : 112 ≤ s.bufLen.toNat := Nat.lt_of_not_le h
    rw [State.pad_h_two h', hs.firstPadBlock_eq h', hs.lengthPadBlock_eq h', hs.h_eq, ← chain, ← chain]
    congr 1
    omega

/-- A first final latches the digest of the absorbed message. -/
theorem Absorbed.latch_pad : s.pad.latchDigest.digest = sha384 msg := by
  rw [State.latchDigest_digest, hs.pad_h]
  rfl

end

/-- Settles O32: Pad leaves in H the chaining value after the padded message, and final latches it. -/
theorem finalLatchesTheDigest : Obligations.FinalLatchesTheDigest :=
  fun _ _ hs => ⟨_, exec_final_first hs.1, rfl, hs.latch_pad⟩

end Sys2Proof.Machine
end

section
/-! SUPPORT. Pieces of a host program as what they do to the host's registers and an idle engine, whatever stands around them; from
these and the absorbed message, the statement O60. -/

namespace Sys2Proof.Machine

/-! ### A piece of a program, executed -/

/-- A host without a bus error that runs `program` at instruction `pc`, on an engine, no turn chosen. -/
def Hosted.running (program : List HostInstr) (pc : Nat) (regs : Vector Word 7) (s : State) : Hosted :=
  { host := { regs := regs, pc := pc, program := program, status := .running, busError := none }, engine := s, turns := [] }

theorem Hosted.launch_eq_running (program : List HostInstr) (s : State) :
    Hosted.launch program s = Hosted.running program 0 (Vector.replicate 7 0) s := rfl

/-- `code`, wherever it stands in a program, leads from its first instruction to the one behind its last, and takes the registers
and the engine from `regs` and `s` to `regs'` and `s'`. -/
def Executes (act : BusErrorAction) (code : List HostInstr) (regs : Vector Word 7) (s : State) (regs' : Vector Word 7)
    (s' : State) : Prop :=
  ∀ before after, Hosted.Reaches act (.running (before ++ code ++ after) before.length regs s)
    (.running (before ++ code ++ after) (before ++ code).length regs' s')

section
variable {act : BusErrorAction} {regs regs' regs'' : Vector Word 7} {s s' s'' t : State}

theorem Executes.nil : Executes act [] regs s regs s := fun before after => by
  rw [List.append_nil]
  exact .refl _ _

theorem Executes.append {code code' : List HostInstr} (h : Executes act code regs s regs' s')
    (h' : Executes act code' regs' s' regs'' s'') : Executes act (code ++ code') regs s regs'' s'' := by
  intro before after
  have h1 := h before (code' ++ after)
  have h2 := h' (before ++ code) after
  rw [← List.append_assoc] at h1
  rw [← List.append_assoc]
  exact h1.trans h2

/-- A loop over chunks, unrolled: each piece takes the invariant one chunk on. -/
theorem executes_flatMap_range {P : Nat → State → Prop} {code : Nat → List HostInstr}
    (hstep : ∀ j s, P j s → ∃ t, Executes act (code j) regs s regs t ∧ P (j + 1) t) (h0 : P 0 s) (n : Nat) :
    ∃ t, Executes act ((List.range n).flatMap code) regs s regs t ∧ P n t := by
  induction n with
  | zero => exact ⟨s, .nil, h0⟩
  | succ n ih =>
    obtain ⟨t, ht, hP⟩ := ih
    obtain ⟨t', ht', hP'⟩ := hstep n t hP
    refine ⟨t', ?_, hP'⟩
    rw [List.range_succ, List.flatMap_append, List.flatMap_singleton]
    exact ht.append ht'

/-- A program that ends behind `code` runs to a successful end. -/
theorem Executes.succeeds {code : List HostInstr} (h : Executes act code (Vector.replicate 7 0) s regs s')
    (hb : s'.busy = false) :
    ∃ k m, Hosted.run act k (Hosted.launch (code ++ [.halt]) s) = .next m ∧ m.succeeded = true ∧ m.engine = s' ∧
      m.host.regs = regs := by
  have habout : (Hosted.running (code ++ [.halt]) code.length regs s').About .halt :=
    ⟨rfl, hb, rfl, List.getElem?_concat_length⟩
  obtain ⟨k, hk⟩ := (h [] [.halt]).trans (.single (habout.step act))
  refine ⟨k, _, hk, ?_, rfl, rfl⟩
  rw [hostExec_halt]
  simp [Hosted.succeeded, Hosted.ended, Hosted.withPair, HostState.stop, Hosted.running, hb]

/-! ### One instruction -/

/-- The instruction `i` is next between its neighbours. -/
theorem Hosted.about_running (before after : List HostInstr) (i : HostInstr) (hb : s.busy = false) :
    (Hosted.running (before ++ [i] ++ after) before.length regs s).About i :=
  ⟨rfl, hb, rfl, by simp [Hosted.running]⟩

/-- An instruction that takes the host on to the next one. -/
theorem executes_of_hostExec {i : HostInstr} (hb : s.busy = false)
    (h : ∀ x : HostState, x.regs = regs → hostExec act i x s = ({ x with regs := regs', pc := x.pc + 1 }, s')) :
    Executes act [i] regs s regs' s' := by
  intro before after
  have habout := Hosted.about_running (regs := regs) before after i hb
  have hexec := h (Hosted.running (before ++ [i] ++ after) before.length regs s).host rfl
  rw [List.length_append]
  exact .single ((habout.step act).trans (congrArg (fun p => Host.Outcome.next (Hosted.withPair _ p)) hexec))

theorem executes_write_dataIn (v : Word) (hb : s.busy = false) :
    Executes act [.wr 0x08 (.imm v)] regs s regs (s.withDataIn v) := by
  refine executes_of_hostExec hb ?_
  rintro x rfl
  rw [hostExec_wr]
  exact hostWrite_done (portAccess_write_dataIn v hb)

/-- A command written is performed before the host goes on (70_reset_and_hazards.md R199). -/
theorem executes_write_cmd {v : Word} (hb : s.busy = false) (ht : performWord v (s.acceptCommand v) = .next t) :
    Executes act [.wr 0x00 (.imm v)] regs s regs t.complete := by
  intro before after
  rw [List.length_append]
  exact (Hosted.about_running before after _ hb).writes_cmd ht act

theorem executes_read {off : BitVec 7} {v : Word} (rd : HostReg) (hb : s.busy = false)
    (hv : portAccess (hostAccess .read off 0) s = .readDone v) : Executes act [.rd rd off] regs s (regs.set rd v) s := by
  refine executes_of_hostExec hb ?_
  rintro x rfl
  rw [hostExec_rd]
  exact hostRead_done hv

theorem executes_andi (rd rs : HostReg) (imm : Word) (hb : s.busy = false) :
    Executes act [.andi rd rs imm] regs s (regs.set rd (regs[rs] &&& imm)) s := by
  refine executes_of_hostExec hb ?_
  rintro x rfl
  rfl

/-- A branch on a register that holds 0 is not taken. -/
theorem executes_bnez_zero {rs : HostReg} (target : Nat) (hz : regs[rs] = 0) (hb : s.busy = false) :
    Executes act [.bnez rs target] regs s regs s := by
  refine executes_of_hostExec hb ?_
  rintro x rfl
  rw [hostExec_bnez, if_neg (not_not.mpr hz)]

/-! ### The pieces of ARD's programs -/

/-- BUSY is bit 0 of STATUS (10_state.md R30). -/
theorem statusWord_and_one (hb : s.busy = false) : statusWord s &&& 1 = 0 := by
  have hn := statusWord_toNat s
  rw [hb, Bool.toNat_false] at hn
  apply BitVec.eq_of_toNat_eq
  rw [BitVec.toNat_and, hn]
  refine (Nat.and_one_is_mod _).trans ?_
  change _ = 0
  omega

/-- ERR is bits 7:4 of STATUS (10_state.md R30). -/
theorem statusWord_err (s : State) : (statusWord s).extractLsb' 4 4 = s.err := by
  have hn := statusWord_toNat s
  have herr := s.err.isLt
  have hfinal := s.final.toNat_le
  have hbusy := s.busy.toNat_le
  apply BitVec.eq_of_toNat_eq
  rw [BitVec.extractLsb'_toNat, Nat.shiftRight_eq_div_pow]
  omega

/-- On an idle engine the wait is one turn of its loop, behind which STATUS is read. -/
theorem executes_waitStatus (at0 : Nat) (hb : s.busy = false) :
    Executes act (waitLoop at0 ++ [.rd 6 0x10]) regs s (regs.set 6 (statusWord s)) s := by
  have hread (r : Vector Word 7) : Executes act [.rd 6 0x10] r s (r.set 6 (statusWord s)) s :=
    executes_read 6 hb (portAccess_read_status s)
  have hmask := executes_andi (act := act) (regs := regs.set 6 (statusWord s)) 6 6 1 hb
  have hzero : ((regs.set 6 (statusWord s)).set 6 ((regs.set 6 (statusWord s))[6] &&& 1))[6] = 0 := by
    simpa using statusWord_and_one hb
  have hall := (hread regs).append (hmask.append ((executes_bnez_zero (rs := 6) at0 hzero hb).append (hread _)))
  simpa [waitLoop] using hall

/-- What `readdigest` leaves in r1..r6, as a latch. -/
def digestOfRegs (regs : Vector Word 7) : DigestRegs := ⟨regs[0], regs[1], regs[2], regs[3], regs[4], regs[5]⟩

theorem ardDigest_eq (x : HostState) : ardDigest x = digestBytes (digestOfRegs x.regs) := rfl

theorem executes_readDigest (hb : s.busy = false) :
    ∃ regs', Executes act readDigest regs s regs' s ∧ digestOfRegs regs' = s.digest := by
  have hread (r : Vector Word 7) (rd : HostReg) (k : Fin 6) {off : BitVec 7}
      (hoff : registerAt off.toNat = some ⟨off.toNat, .digest k, true, false, true, false⟩) :
      Executes act [.rd rd off] r s (r.set rd (s.digest.word k)) s :=
    executes_read rd hb (portAccess_reads rfl rfl hoff rfl (.inl hb) rfl)
  refine ⟨_, (hread regs 0 0 rfl).append <| (hread _ 1 1 rfl).append <| (hread _ 2 2 rfl).append <|
    (hread _ 3 3 rfl).append <| (hread _ 4 4 rfl).append (hread _ 5 5 rfl), ?_⟩
  simp [digestOfRegs, DigestRegs.word]

theorem decode_absorbWord {n : Nat} (h : n ≤ 8) :
    decode (0x0000000002000000 ||| BitVec.ofNat 64 n) = .command (.absorb (BitVec.ofNat 4 n)) := by
  have hle : (BitVec.ofNat 4 n).toNat ≤ 8 := (Nat.mod_le ..).trans h
  rw [← BitVec.setWidth_ofNat_of_le_of_lt (w := 4) (by decide) (by omega), ← encode_absorb]
  exact decode_encode (decide_eq_true hle)

/-- The engine after the `absorb.q` of a chunk: DATA_IN written, the command accepted, the chunk absorbed, BUSY fallen. -/
def State.afterChunk (s : State) (c : List Byte) : State :=
  (((s.withDataIn (chunkWord c)).acceptCommand (0x0000000002000000 ||| BitVec.ofNat 64 c.length)).absorbBytes c).complete

theorem executes_absorbQ {c : List Byte} (hc : c.length ≤ 8) (hb : s.busy = false) :
    Executes act [.wr 0x08 (.imm (chunkWord c)), .wr 0x00 (.imm (0x0000000002000000 ||| BitVec.ofNat 64 c.length))]
      regs s regs (s.afterChunk c) := by
  have hcount : (BitVec.ofNat 4 c.length).toNat = c.length := Nat.mod_eq_of_lt (by omega)
  refine (executes_write_dataIn _ hb).append (executes_write_cmd hb ?_)
  rw [performWord_command (decode_absorbWord hc), exec_absorb_legal (by rwa [hcount]), hcount, State.acceptCommand_dataIn,
    State.withDataIn_dataIn, lanes_chunkWord hc]

theorem Absorbed.afterChunk {msg c : List Byte} (hs : Absorbed msg s) (hl : 8 * (msg.length + c.length) < 2 ^ 128) :
    Absorbed (msg ++ c) (s.afterChunk c) ∧ (s.afterChunk c).err = s.err := by
  have hu : Absorbed msg
      ((s.withDataIn (chunkWord c)).acceptCommand (0x0000000002000000 ||| BitVec.ofNat 64 c.length)) := hs
  have ⟨hf, hlen, _⟩ := hu
  obtain ⟨_, herr, _⟩ := State.absorbBytes_frame (ms := c) hf (by omega)
  exact ⟨hu.absorbBytes c hl, herr⟩

/-- `update B` takes the engine on chunk by chunk; what each chunk takes on by one holds behind the last. -/
theorem executes_update {P : Nat → State → Prop} {bs : List Byte} (hbusy : ∀ j s, P j s → s.busy = false)
    (hstep : ∀ j s, P j s → P (j + 1) (s.afterChunk (chunk bs j))) (h0 : P 0 s) :
    ∃ u t, update bs = some u ∧ Executes act u regs s regs t ∧ P ((bs.length + 7) / 8) t := by
  obtain ⟨t, ht, hP⟩ := executes_flatMap_range (act := act) (regs := regs)
    (fun j s hP => ⟨_, executes_absorbQ (chunk_length_le bs j) (hbusy j s hP), hstep j s hP⟩) h0 ((bs.length + 7) / 8)
  exact ⟨_, t, update_eq bs, ht, hP⟩

/-- An idle engine that has absorbed `msg` and the first `j` chunks of `bs`, with ERR still `e`. -/
def ChunksAbsorbed (msg bs : List Byte) (e : BitVec 4) (j : Nat) (s : State) : Prop :=
  s.busy = false ∧ Absorbed (msg ++ bs.take (8 * j)) s ∧ s.err = e

theorem ChunksAbsorbed.next {msg bs : List Byte} {e : BitVec 4} {j : Nat} (hl : 8 * (msg.length + bs.length) < 2 ^ 128)
    (h : ChunksAbsorbed msg bs e j s) : ChunksAbsorbed msg bs e (j + 1) (s.afterChunk (chunk bs j)) := by
  obtain ⟨_, hs, he⟩ := h
  have htake : bs.take (8 * (j + 1)) = bs.take (8 * j) ++ chunk bs j := by rw [Nat.mul_succ, List.take_add, chunk]
  have hle : (bs.take (8 * j) ++ chunk bs j).length ≤ bs.length := htake ▸ List.length_take_le' ..
  rw [List.length_append] at hle
  obtain ⟨hs', he'⟩ := hs.afterChunk (c := chunk bs j) (by rw [List.length_append]; omega)
  rw [List.append_assoc, ← htake] at hs'
  exact ⟨rfl, hs', he'.trans he⟩

/-- On an engine that absorbs, `update B` extends the message by the bytes of B. -/
theorem executes_update_absorbing {msg bs : List Byte} (hb : s.busy = false) (hs : Absorbed msg s)
    (hl : 8 * (msg.length + bs.length) < 2 ^ 128) :
    ∃ u t, update bs = some u ∧ Executes act u regs s regs t ∧ t.busy = false ∧ Absorbed (msg ++ bs) t ∧ t.err = s.err := by
  obtain ⟨u, t, hu, hrun, hbt, hst, het⟩ := executes_update (act := act) (regs := regs) (s := s)
    (P := ChunksAbsorbed msg bs s.err) (fun _ _ h => h.1) (fun _ _ h => h.next hl) ⟨hb, by simpa using hs, rfl⟩
  rw [List.take_of_length_le (by omega)] at hst
  exact ⟨u, t, hu, hrun, hbt, hst, het⟩

/-- An idle finalized engine with this latch and length that has refused `j` chunks, the first of them with ERR = 0. -/
def ChunksRefused (d : DigestRegs) (l : BitVec 128) (j : Nat) (s : State) : Prop :=
  s.busy = false ∧ s.final = true ∧ s.digest = d ∧ s.len = l ∧ s.err = if j = 0 then 0 else 1

theorem ChunksRefused.next {d : DigestRegs} {l : BitVec 128} {j : Nat} (c : List Byte) (h : ChunksRefused d l j s) :
    ChunksRefused d l (j + 1) (s.afterChunk c) := by
  obtain ⟨_, hf, hd, hl, he⟩ := h
  have hafter : s.afterChunk c = State.complete (.raiseError _ .invalidState) :=
    congrArg State.complete (State.absorbBytes_finalized c hf)
  rw [hafter]
  refine ⟨rfl, hf, hd, hl, ?_⟩
  rw [State.complete_err, State.raiseError_err, State.acceptCommand_err, State.withDataIn_err, he]
  split <;> rfl

/-- After finalization, with ERR = 0 and a byte to absorb, `update B` records INVALID_STATE and absorbs nothing. -/
theorem executes_update_finalized {bs : List Byte} (hb : s.busy = false) (hf : s.final = true) (he : s.err = 0)
    (hbs : bs ≠ []) :
    ∃ u t, update bs = some u ∧ Executes act u regs s regs t ∧ t.busy = false ∧ t.digest = s.digest ∧ t.len = s.len ∧
      t.err = 1 := by
  obtain ⟨u, t, hu, hrun, hbt, _, hdt, hlt, het⟩ := executes_update (act := act) (regs := regs) (s := s) (bs := bs)
    (P := ChunksRefused s.digest s.len) (fun _ _ h => h.1) (fun _ _ h => h.next _) ⟨hb, hf, rfl, rfl, he⟩
  have hpos := List.length_pos_of_ne_nil hbs
  rw [if_neg (by omega)] at het
  exact ⟨u, t, hu, hrun, hbt, hdt, hlt, het⟩

/-- ARD's `update` is `update B`, then STATUS into r7. -/
theorem executes_ardUpdate {bs : List Byte} {u : List HostInstr} (hu : update bs = some u)
    (hrun : Executes act u regs s regs t) (hb : t.busy = false) :
    ∃ u', ardUpdate 0 bs = some u' ∧ Executes act u' regs s (regs.set 6 (statusWord t)) t := by
  refine ⟨u ++ (waitLoop (0 + u.length) ++ [.rd 6 0x10]), ?_, hrun.append (executes_waitStatus _ hb)⟩
  rw [ardUpdate, hu, ← List.append_assoc]
  rfl

/-- The report says of ERR what STATUS said. -/
theorem ardUpdateReport_eq_invalidState {x : HostState} (h : x.regs = regs.set 6 (statusWord t)) :
    ardUpdateReport x = .invalidState ↔ t.err = 1 := by
  have hstatus : x.regs[6] = statusWord t := by simp [h]
  rw [ardUpdateReport, hstatus, ardReport, statusWord_err]
  split <;> simp_all

/-- `init` on an idle engine starts the empty message. -/
theorem executes_init (hb : s.busy = false) :
    ∃ t, Executes act [.wr 0x00 (.imm 0x0000000001000000)] regs s regs t ∧ t.busy = false ∧ Absorbed [] t := by
  have hinit := performWord_command (v := 0x0000000001000000) (i := .init) (by decide) (s.acceptCommand 0x0000000001000000)
  exact ⟨_, executes_write_cmd hb hinit, rfl, absorbed_construct _⟩

/-- `final`, then `readdigest`: the digest of the absorbed message in r1..r6. -/
theorem executes_finalize {msg : List Byte} (hb : s.busy = false) (hs : Absorbed msg s) :
    ∃ regs' t, Executes act ([.wr 0x00 (.imm 0x0000000004000000)] ++ readDigest) regs s regs' t ∧ t.busy = false ∧
      digestOfRegs regs' = sha384 msg := by
  obtain ⟨t, ht, _, hd⟩ := finalLatchesTheDigest msg (s.acceptCommand 0x0000000004000000) hs
  obtain ⟨regs', hread, hregs⟩ := executes_readDigest (act := act) (regs := regs) (s := t.complete) rfl
  have hfinal := (performWord_command (v := 0x0000000004000000) (by decide) _).trans ht
  exact ⟨regs', t.complete, (executes_write_cmd hb hfinal).append hread, rfl, hregs.trans hd⟩

/-- `sha384 B` on any idle engine: init, update, final, readdigest. -/
theorem executes_sha384 {bs : List Byte} (hb : s.busy = false) (hl : 8 * bs.length < 2 ^ 128) :
    ∃ u regs' t, ardSha384 bs = some u ∧ Executes act u regs s regs' t ∧ t.busy = false ∧
      digestOfRegs regs' = sha384 bs := by
  obtain ⟨t₁, hrun₁, hb₁, hs₁⟩ := executes_init (act := act) (regs := regs) hb
  obtain ⟨u, t₂, hu, hrun₂, hb₂, hs₂, _⟩ :=
    executes_update_absorbing (act := act) (regs := regs) hb₁ hs₁ (bs := bs) (by simpa using hl)
  obtain ⟨regs', t₃, hrun₃, hb₃, hd⟩ := executes_finalize (act := act) (regs := regs) hb₂ hs₂
  refine ⟨_, regs', t₃, sha384Program_eq hu, ?_, hb₃, hd⟩
  rw [List.append_assoc]
  exact (hrun₁.append hrun₂).append hrun₃

end

/-- Settles O60: each program is a piece executed on an idle engine, with a `halt` behind it. -/
theorem ardOperationsReturnTheirResults : Obligations.ArdOperationsReturnTheirResults := by
  refine ⟨fun act msg bs s hb hs hl => ?update, fun act bs s hb hf he hbs => ?finalized, fun act msg s hb hs => ?finalize,
    fun act bs s hb hl => ?sha384⟩
  case update =>
    obtain ⟨u, t, hu, hrun, hbt, hst, het⟩ := executes_update_absorbing hb hs hl
    obtain ⟨u', hu', hrun'⟩ := executes_ardUpdate hu hrun hbt
    obtain ⟨k, m, hk, hok, rfl, hregs⟩ := hrun'.succeeds hbt
    exact ⟨u', k, m, hu', hk, hok, hst, het, (ardUpdateReport_eq_invalidState hregs).trans (by rw [het])⟩
  case finalized =>
    obtain ⟨u, t, hu, hrun, hbt, hdt, hlt, het⟩ := executes_update_finalized hb hf he hbs
    obtain ⟨u', hu', hrun'⟩ := executes_ardUpdate hu hrun hbt
    obtain ⟨k, m, hk, hok, rfl, hregs⟩ := hrun'.succeeds hbt
    exact ⟨u', k, m, hu', hk, hok, hdt, hlt, (ardUpdateReport_eq_invalidState hregs).mpr het⟩
  case finalize =>
    obtain ⟨regs', t, hrun, hbt, hd⟩ := executes_finalize hb hs
    obtain ⟨k, m, hk, hok, _, rfl⟩ := hrun.succeeds hbt
    exact ⟨_, k, m, rfl, hk, hok, by rw [ardDigest_eq, hd]⟩
  case sha384 =>
    obtain ⟨u, regs', t, hu, hrun, hbt, hd⟩ := executes_sha384 hb hl
    obtain ⟨k, m, hk, hok, _, rfl⟩ := hrun.succeeds hbt
    exact ⟨u, k, m, hu, hk, hok, by rw [ardDigest_eq, hd]⟩

end Sys2Proof.Machine
end

section
/-! SUPPORT. The digest bytes and the hex text place by place (42_output.md R160, R163);
from these, the statements O35 and O36. -/

namespace Sys2Proof.Machine

/-! ### The digest bytes (42_output.md R160) -/

@[simp] theorem digestBytes_length (d : DigestRegs) : (digestBytes d).length = 48 := by simp [digestBytes]

/-- Byte 8k + i of the digest is byte `i`, from the most significant, of latch word `k`. -/
theorem digestByte_eq_lane (d : DigestRegs) (k : Fin 6) (i : Fin 8) :
    digestByte d ⟨8 * k.val + i.val, by omega⟩ = lane (d.word k) i := by
  have hdiv : (8 * k.val + i.val) / 8 = k.val := by omega
  have hmod : (8 * k.val + i.val) % 8 = i.val := by omega
  simp only [digestByte, lane, hdiv, hmod]

theorem digestBytes_getD (d : DigestRegs) (k : Fin 6) (i : Fin 8) :
    (digestBytes d).getD (8 * k.val + i.val) 0 = lane (d.word k) i := by
  rw [← digestByte_eq_lane, List.getD_eq_getElem _ _ (by rw [digestBytes_length]; omega)]
  simp [digestBytes]

/-- The digest bytes word by word. -/
theorem digestBytes_eq_flatMap (d : DigestRegs) :
    digestBytes d = (List.finRange 6).flatMap fun k => List.ofFn fun i : Fin 8 => lane (d.word k) i := by
  have hsplit := List.ofFn_mul' (m := 8) (n := 6) (digestByte d)
  rw [digestBytes, ← List.ofFn_eq_map]
  simpa only [← List.flatMap_def, ← digestByte_eq_lane, List.ofFn_eq_map] using hsplit

/-- Register `k` of r1..r6 is latch word `k` of the digest they hold. -/
theorem word_digestOfRegs (regs : Vector Word 7) (k : Fin 6) : (digestOfRegs regs).word k = regs[k.val] := by
  fin_cases k <;> rfl

theorem digestIntoArray_eq_ardDigest (o : HostByteOrder) (x : HostState) : digestIntoArray o x = ardDigest x := by
  simp only [digestIntoArray, ardDigest_eq, digestBytes_eq_flatMap, splitWord_eq, Vector.toList_ofFn, word_digestOfRegs]

/-- Settles O35: eight digest bytes are the lanes of one latch word, and a split word stands as its lanes on every host. -/
theorem digestBytesAreBigEndian : Obligations.DigestBytesAreBigEndian := by
  refine ⟨fun d => ⟨digestBytes_length d, fun k => ?bytes⟩,
    fun o => ⟨fun v p => ?stored, loadWord_storeWord o, digestIntoArray_eq_ardDigest o⟩⟩
  case bytes =>
    calc
      _ = wordOfBytes fun i => (digestBytes d).getD (8 * k.val + i.val) 0 := rfl
      _ = wordOfBytes fun i => lane (d.word k) i := by simp only [digestBytes_getD]
      _ = d.word k := wordOfBytes_lane _
  case stored => simp [storeWord, lane]

/-! ### The hex text (42_output.md R163) -/

theorem hexDigit_eq_getElem? (n : BitVec 4) : some (hexDigit n) = "0123456789abcdef".toList[n.toNat]? := by
  revert n
  decide

theorem hexText_length (bs : List Byte) : (bs.flatMap hexByte).length = 2 * bs.length := by
  simp [List.length_flatMap, hexByte, Nat.mul_comm]

/-- The two characters of byte `i` are at places 2i and 2i + 1. -/
theorem hexText_getElem? (bs : List Byte) (i : Nat) :
    (bs.flatMap hexByte)[2 * i]? = bs[i]?.map (fun b => hexDigit (b.extractLsb' 4 4)) ∧
      (bs.flatMap hexByte)[2 * i + 1]? = bs[i]?.map (fun b => hexDigit (b.extractLsb' 0 4)) := by
  induction bs generalizing i with
  | nil => simp
  | cons b bs ih =>
    cases i with
    | zero => simp [hexByte]
    | succ i => simpa [hexByte, Nat.mul_succ] using ih i

theorem toNat_highNibble (b : Byte) : (b.extractLsb' 4 4).toNat = b.toNat / 16 := by
  have hb := b.isLt
  simp only [BitVec.extractLsb'_toNat, Nat.shiftRight_eq_div_pow]
  omega

theorem toNat_lowNibble (b : Byte) : (b.extractLsb' 0 4).toNat = b.toNat % 16 := by
  simp [BitVec.extractLsb'_toNat]

/-- Settles O36: two characters a byte, each the digit of its nibble. -/
theorem hexTextWritesEachByteHighNibbleFirst : Obligations.HexTextWritesEachByteHighNibbleFirst := by
  refine fun d => ⟨by rw [digestHex, hexText_length, digestBytes_length], fun i => ?_⟩
  obtain ⟨hhigh, hlow⟩ := hexText_getElem? (digestBytes d) i.val
  have hi : i.val < (digestBytes d).length := by rw [digestBytes_length]; exact i.isLt
  rw [digestHex, hhigh, hlow, List.getD_eq_getElem _ _ hi, List.getElem?_eq_getElem hi, Option.map_some, Option.map_some,
    hexDigit_eq_getElem?, hexDigit_eq_getElem?, toNat_highNibble, toNat_lowNibble]
  exact ⟨rfl, rfl⟩

end Sys2Proof.Machine
end

section
/-! SUPPORT. The engine's errors, the bus errors, LEN, and the idle engine (60_exceptions.md R172 to R185); from these, the
statements O12, O19, O20, O39 and O50. -/

namespace Sys2Proof.Machine

/-! ### The words that absorb bytes (41_commands.md R135, R136) -/

/-- A word that decodes to absorb is AbsorbBytes on the lanes it names: its count is 0..8. -/
theorem performWord_absorb {v : Word} {n : BitVec 4} (h : decode v = .command (.absorb n)) (s : State) :
    performWord v s = .next (s.absorbBytes (lanes s.dataIn n.toNat)) := by
  rw [performWord_command h, exec_absorb_legal (decode_absorb_count h)]

theorem performWord_absorbB {v : Word} {m : Byte} (h : decode v = .command (.absorbB m)) (s : State) :
    performWord v s = .next (s.absorbBytes [m]) := by
  rw [performWord_command h, exec_absorbB]

/-- Either absorbing word is AbsorbBytes on some bytes. -/
theorem performWord_absorbs {v : Word}
    (h : (∃ n, decode v = .command (.absorb n)) ∨ ∃ m, decode v = .command (.absorbB m)) (s : State) :
    ∃ ms, performWord v s = .next (s.absorbBytes ms) := by
  obtain ⟨n, hd⟩ | ⟨m, hd⟩ := h
  · exact ⟨_, performWord_absorb hd s⟩
  · exact ⟨_, performWord_absorbB hd s⟩

/-! ### Who raises INVALID_STATE and LENGTH_OVERFLOW (60_exceptions.md R172, R174) -/

/-- Recording another error leaves INVALID_STATE in ERR only where it was. -/
theorem recordError_eq_one {err : BitVec 4} {e : EngineError} (he : e ≠ .invalidState) (h : recordError err e = 1) :
    err = 1 := by
  by_cases h0 : err = 0
  · subst h0
    rw [recordError_zero] at h
    cases e with
    | invalidState => exact absurd rfl he
    | illegalCmd | lengthOverflow => exact absurd h (by decide)
  · rwa [recordError_of_ne_zero h0] at h

/-- While absorbing, AbsorbBytes raises at most LENGTH_OVERFLOW. -/
theorem State.absorbBytes_err_eq_one {s : State} {ms : List Byte} (hf : s.final = false)
    (h : (s.absorbBytes ms).err = 1) : s.err = 1 := by
  rcases s.absorbBytes_cases ms with ⟨hf', _⟩ | ⟨_, _, heq⟩ | ⟨_, _, heq⟩
  · exact absurd (hf.symm.trans hf') Bool.false_ne_true
  · rw [heq] at h
    exact recordError_eq_one (by decide) h
  · simpa [heq] using h

/-- `final` raises nothing, in either phase. -/
theorem exec_final_err {s t : State} (h : exec .final s = .next t) : t.err = s.err := by
  cases hf : s.final with
  | true =>
    cases (exec_final_again hf).symm.trans h
    rfl
  | false =>
    cases (exec_final_first hf).symm.trans h
    exact s.pad_err

/-- Settles O19: after finalization AbsorbBytes is the error entry; of the other effects, none records INVALID_STATE. -/
theorem invalidStateIsRaisedAfterFinal : Obligations.InvalidStateIsRaisedAfterFinal := by
  refine fun s v => ⟨fun hf hv => ?raised, fun hv => ?others⟩
  case raised =>
    obtain ⟨ms, hp⟩ := performWord_absorbs hv s
    rw [hp, State.absorbBytes_finalized ms hf]
    rfl
  case others =>
    obtain ⟨t, ht⟩ := performWord_answers v s
    refine ⟨t, ht, fun he => ?_⟩
    obtain hd | hd | hd | hillegal | ⟨hf, habs⟩ := hv
    · cases (performWord_command hd s).symm.trans ht
      exact absurd he (by decide : (0 : BitVec 4) ≠ 1)
    · cases (performWord_command hd s).symm.trans ht
      exact he
    · rwa [exec_final_err ((performWord_command hd s).symm.trans ht)] at he
    · cases (illegalWordOnlyRecordsTheError s v hillegal).symm.trans ht
      exact recordError_eq_one (e := .illegalCmd) (by decide) he
    · obtain ⟨ms, hp⟩ := performWord_absorbs habs s
      cases hp.symm.trans ht
      exact State.absorbBytes_err_eq_one hf he

/-- Settles O20: the length check of AbsorbBytes fails, for as many bytes as the word names. -/
theorem lengthOverflowAbsorbsNothing : Obligations.LengthOverflowAbsorbsNothing := by
  rintro s v hf n (⟨c, hd, rfl⟩ | ⟨⟨m, hd⟩, rfl⟩) hl
  · rw [performWord_absorb hd, State.absorbBytes_overflow hf (by rwa [lanes_length])]
    rfl
  · rw [performWord_absorbB hd, State.absorbBytes_overflow (ms := [m]) hf hl]
    rfl

/-! ### LEN (10_state.md R23, 60_exceptions.md R174) -/

/-- No command but init takes anything from LEN: the length check keeps the sum below 2^128. -/
theorem exec_len_le {i : Instr} {s t : State} (h : exec i s = .next t) : s.len.toNat ≤ t.len.toNat ∨ i = .init := by
  rcases exec_cases h with rfl | ⟨hi, _⟩ | ⟨e, rfl, _⟩ | ⟨ms, _, hl, rfl, _⟩ | ⟨_, _, rfl⟩
  · exact .inl le_rfl
  · exact .inr hi
  · exact .inl le_rfl
  · rw [State.addLen_toNat (by simpa using hl), State.absorbLoop_len]
    exact .inl (Nat.le_add_right _ _)
  · exact .inl (by simp)

/-- Settles O50: of the commands init alone lowers LEN, and of the other events only a reset. -/
theorem lengthNeverWraps : Obligations.LengthNeverWraps := by
  intro s t h hlt
  rcases step_engine_cases h with ⟨i, u, hr, hu, rfl⟩ | rfl | ⟨hr, _⟩ | ⟨hk, _⟩
  · obtain hle | rfl := exec_len_le hu
    · exact absurd hlt (Nat.not_lt.mpr hle)
    · exact .inr hr
  · exact absurd hlt (Nat.lt_irrefl _)
  · exact .inl hr
  · rw [hk.len] at hlt
    exact absurd hlt (Nat.lt_irrefl _)

/-! ### The bus errors (60_exceptions.md R177) -/

theorem serve_busError {s : State} {host : Nat} {a : Access} {reason : BusError} (ho : s.oldestOf host = some a)
    (hp : portAccess a s = .busError reason) : s.serve host = s.answer host (.busError reason) := by
  simp only [State.serve, ho, hp]

/-- Settles O39: each premise fails one of the port's tests, and a bus error is the answer and nothing else. -/
theorem busErrorsChangeNothing : Obligations.BusErrorsChangeNothing := by
  intro s a rest hi holdest reason hreason
  obtain ⟨hwidth, halign, hunmapped, hreadCmd, hreadOnly, _⟩ := portDecidesInOrder a (s.withInputs rest)
  have hp : portAccess a (s.withInputs rest) = .busError reason := by
    obtain ⟨hw, rfl⟩ | ⟨hw, ha, rfl⟩ | ⟨hw, ho, rfl⟩ | ⟨hw, hd, ho, rfl⟩ | ⟨hw, hd, ho, rfl⟩ := hreason
    · exact hwidth hw
    · exact halign hw ha
    · exact hunmapped hw ho
    · exact hreadCmd hw hd ho
    · exact hreadOnly hw hd ho
  rw [step_serve hi, serve_busError (s := s.withInputs rest) holdest hp]
  rfl

/-! ### The idle engine (60_exceptions.md R185) -/

/-- The completion undoes what accepting a command did to an idle engine. -/
theorem complete_withPending_of_idle {s : State} (hb : s.busy = false) (hp : s.pend = none) (v : Word) :
    ((s.withPending v).withInputs s.inputs).complete = s := by
  cases s
  cases hb
  cases hp
  rfl

/-- Settles O12: with no input, command or access a step is quiet; the word 0 is nop, and the rest is the completion. -/
theorem idleEngineKeepsItsState : Obligations.IdleEngineKeepsItsState := by
  refine ⟨fun s hb hi hw => ?quiet, fun s hb hp => ?nop⟩
  case quiet => simp [step, machineStep, hi, quietStep, hb, hw]
  case nop =>
    have hd : decode 0x0000000000000000 = .command .nop := (nopLeavesTheStateUnchanged.1 _).mpr rfl
    obtain ⟨hn, _⟩ := runs_withPending hd s
    rw [step_performs hn rfl, performWord_command hd, exec_nop]
    exact congrArg Host.Outcome.next (complete_withPending_of_idle hb hp _)

end Sys2Proof.Machine
end

section
/-! SUPPORT. The windows of the engines, and which engines a step of a platform changes (20_memory.md R50, 60_exceptions.md R183);
from these, the statement O57. -/

namespace Sys2Proof.Machine

/-! ### The windows -/

theorem inWindow_iff {k addr : Nat} :
    inWindow k addr = true ↔ Config.engineBase k ≤ addr ∧ addr < Config.engineBase k + 0x80 := decide_eq_true_iff

/-- Two windows that share an address are one: the slots are a permutation. -/
theorem inWindow_unique {j k addr : Nat} (hj : inWindow j addr = true) (hk : inWindow k addr = true) : j = k := by
  rw [inWindow_iff, Config.engineBase] at hj hk
  exact Config.windowSlot.injective (by omega)

/-- The owner of an address in the window of an engine is that engine, whatever other windows there are. -/
theorem windowOwner_of_inWindow {n k addr : Nat} (hn : k < n) (hk : inWindow k addr = true) :
    windowOwner n addr = some k := by
  cases h : windowOwner n addr with
  | none => exact absurd hk (List.find?_eq_none.mp h k (List.mem_range.mpr hn))
  | some j =>
    have hj : inWindow j addr = true := List.find?_some (p := (inWindow · addr)) h
    rw [inWindow_unique hj hk]

theorem windowOwner_eq_none {n addr : Nat} (h : ∀ k, k < n → inWindow k addr = false) : windowOwner n addr = none :=
  List.find?_eq_none.mpr fun k hk => by simp [h k (List.mem_range.mp hk)]

/-- The offset of an address in its window, as a number. -/
theorem atWindow_off_toNat {a : BusAccess} {k : Nat} (h : inWindow k a.addr = true) :
    (a.atWindow k).off.toNat = a.addr - Config.engineBase k := by
  rw [inWindow_iff] at h
  exact Nat.mod_eq_of_lt (by omega)

/-! ### What a step of the platform changes -/

/-- As many engines as before, and every engine but `k` as it was. -/
def Platform.SameBut (k : Nat) (p q : Platform) : Prop :=
  q.engines.length = p.engines.length ∧ ∀ j, j ≠ k → q.engines[j]? = p.engines[j]?

theorem Platform.SameBut.refl (k : Nat) (p : Platform) : p.SameBut k p := ⟨rfl, fun _ _ => rfl⟩

theorem Platform.sameBut_withEngine (p : Platform) (k : Nat) (s : State) : p.SameBut k (p.withEngine k s) :=
  ⟨List.length_set, fun _ hj => List.getElem?_set_ne (Ne.symm hj)⟩

/-- An engine that acts is the only one that changes. -/
theorem Platform.act_sameBut {p q : Platform} {k : Nat} {f : State → Host.Outcome State Fault Refusal}
    (h : p.act k f = .next q) : p.SameBut k q := by
  unfold Platform.act at h
  split at h
  · cases h
    exact .refl k p
  · split at h
    · cases h
      exact p.sameBut_withEngine k _
    · cases h
    · cases h

/-- The engine that acts, where there is one and it answers. -/
theorem Platform.act_next {p : Platform} {k : Nat} {f : State → Host.Outcome State Fault Refusal} {s t : State}
    (hs : p.engines[k]? = some s) (hf : f s = .next t) : p.act k f = .next (p.withEngine k t) := by
  simp only [Platform.act, hs, hf]

theorem Platform.take_of_target {p : Platform} {e : PlatformEvent} {k : Nat} (h : p.target e = some k) :
    p.take e = p.act k (engineEvent k e) := by
  simp only [Platform.take, h]

theorem Platform.take_of_noTarget {p : Platform} {e : PlatformEvent} (h : p.target e = none) : p.take e = .next p := by
  simp only [Platform.take, h]

theorem Platform.step_event {p : Platform} {e : PlatformEvent} {rest : List PlatformEvent} (h : p.events = e :: rest) :
    p.step = (p.withEvents rest).take e := by
  simp only [Platform.step, h]

theorem Platform.step_noEvent {p : Platform} (h : p.events = []) : p.step = p.settle := by
  simp only [Platform.step, h]

/-- An event taken changes no engine but its target. -/
theorem Platform.take_others {p q : Platform} {e : PlatformEvent} (h : p.take e = .next q) :
    q.engines.length = p.engines.length ∧ ∀ j, p.target e ≠ some j → q.engines[j]? = p.engines[j]? := by
  cases ht : p.target e with
  | none =>
    cases (Platform.take_of_noTarget ht).symm.trans h
    exact ⟨rfl, fun _ _ => rfl⟩
  | some k =>
    obtain ⟨hlen, hothers⟩ := Platform.act_sameBut ((Platform.take_of_target ht).symm.trans h)
    exact ⟨hlen, fun j hj => hothers j fun hjk => hj (congrArg some hjk.symm)⟩

/-- With no event left, at most one engine acts. -/
theorem Platform.settle_sameBut {p q : Platform} (h : p.settle = .next q) : ∃ k, p.SameBut k q := by
  unfold Platform.settle at h
  split at h
  · cases h
    exact ⟨0, .refl 0 p⟩
  · exact ⟨_, Platform.act_sameBut h⟩

/-- A bus access in the window of an engine is issued to that engine, at its offset there. -/
theorem Platform.take_bus {p : Platform} {a : BusAccess} {k : Nat} {s : State} (hs : p.engines[k]? = some s)
    (hk : inWindow k a.addr = true) : p.take (.bus a) = .next (p.withEngine k (s.issue (a.atWindow k))) := by
  obtain ⟨hlt, _⟩ := List.getElem?_eq_some_iff.mp hs
  rw [Platform.take_of_target (e := .bus a) (windowOwner_of_inWindow hlt hk)]
  exact Platform.act_next hs rfl

/-- Settles O57: an event by its target, an access by the owner of its address, and the step without events by the one engine
that acts. -/
theorem enginesAreIndependent : Obligations.EnginesAreIndependent := by
  refine ⟨fun p q e rest he h => ?event, fun p a rest k s he hs hlo hhi => ?inside, fun p a rest he hout => ?outside,
    fun p q he h => ?settle⟩
  case event => exact Platform.take_others (p := p.withEvents rest) ((Platform.step_event he).symm.trans h)
  case inside =>
    have hk : inWindow k a.addr = true := inWindow_iff.mpr ⟨hlo, hhi⟩
    exact ⟨_, _, atWindow_off_toNat hk, (Platform.step_event he).trans (Platform.take_bus hs hk), rfl, rfl⟩
  case outside =>
    exact ⟨_, (Platform.step_event he).trans (Platform.take_of_noTarget (windowOwner_eq_none hout)), rfl⟩
  case settle =>
    obtain ⟨k, _, hothers⟩ := Platform.settle_sameBut ((Platform.step_noEvent he).symm.trans h)
    exact ⟨k, hothers⟩

end Sys2Proof.Machine
end

section
/-! SUPPORT. Reset and what it sets, runs of the machine of at most so many steps, and how a run without further input ends; from
these, the statements O1, O2, O53, O54 and O55. -/

namespace Sys2Proof.Machine

/-! ### Reset (70_reset_and_hazards.md R190 to R192) -/

theorem hasResetValues_resetEngine (s : State) : HasResetValues s.resetEngine :=
  ⟨rfl, rfl, rfl, rfl, rfl, rfl, rfl, rfl, rfl⟩

theorem step_reset {s : State} {rest : List Input} (h : s.inputs = .reset :: rest) :
    step s = .next (s.withInputs rest).resetEngine := by
  simp only [step, machineStep, h, inputStep]

/-- Settles O1: a reset sets the listed values whatever the state, and the state after reset is one. -/
theorem resetLeavesTheListedValues : Obligations.ResetLeavesTheListedValues :=
  ⟨hasResetValues_resetEngine State.reset, hasResetValues_resetEngine⟩

/-- Settles O2: the reset step is the reset of the engine with that input taken, and init's assignments are those of reset. -/
theorem resetAbandonsThePendingCommand : Obligations.ResetAbandonsThePendingCommand :=
  ⟨fun _ _ hi => ⟨_, step_reset hi, hasResetValues_resetEngine _, rfl, rfl, rfl⟩,
    fun s => ⟨_, exec_init s, rfl, rfl, rfl, rfl, rfl, rfl, rfl, rfl, rfl⟩⟩

/-- Settles O53: the invariant holds after the reset of any state. -/
theorem invariantHoldsAtReset : Obligations.InvariantHoldsAtReset :=
  engineInv_resetEngine State.reset

/-! ### Runs of the machine -/

/-- At most `n` steps lead from `s` to `t`. -/
def ReachesWithin (n : Nat) (s t : State) : Prop := ∃ k, k ≤ n ∧ Host.Core.run Sys2Proof.core k s = .next t

theorem ReachesWithin.refl (n : Nat) (s : State) : ReachesWithin n s s := ⟨0, Nat.zero_le n, rfl⟩

theorem ReachesWithin.single {s t : State} (h : step s = .next t) : ReachesWithin 1 s t := by
  refine ⟨1, le_rfl, ?_⟩
  simp only [Host.Core.run, show Sys2Proof.core.step s = .next t from h]

/-- A run that goes on from where its first part stopped. -/
theorem coreRun_add {M : Host.Core} {k : Nat} {s t : M.State} (l : Nat) (h : M.run k s = .next t) :
    M.run (k + l) s = M.run l t := by
  induction k generalizing s with
  | zero =>
    cases h
    rw [Nat.zero_add]
  | succ k ih =>
    rw [Nat.succ_add]
    simp only [Host.Core.run] at h ⊢
    split at h
    · exact ih h
    · cases h
    · cases h

theorem ReachesWithin.trans {m n l : Nat} {s t u : State} (h : ReachesWithin m s t) (h' : ReachesWithin n t u)
    (hl : m + n ≤ l) : ReachesWithin l s u := by
  obtain ⟨j, hj, hrun⟩ := h
  obtain ⟨k, hk, hrun'⟩ := h'
  exact ⟨j + k, by omega, (coreRun_add k hrun).trans hrun'⟩

/-! ### What a step does to the inputs, PEND and BUSY -/

/-- The engine step leaves no command pending and the port's queues as they were (41_commands.md R130). -/
theorem engineStep_completes {s t : State} (h : engineStep s = .next t) : t.busy = false ∧ SameQueues s t := by
  obtain ⟨v, u, _, hu, rfl⟩ := engineStep_cases h
  obtain ⟨i, _, hexec⟩ | ⟨_, _, rfl⟩ := performWord_cases hu
  · obtain ⟨_, _, _, hqueues⟩ := commandsLeaveThePortSideAlone i s u hexec
    exact ⟨rfl, hqueues⟩
  · exact ⟨rfl, rfl, rfl, rfl⟩

/-- A step takes the first input, if there is one, and adds none. -/
theorem step_inputs {s t : State} (h : step s = .next t) : t.inputs = s.inputs.tail := by
  rcases step_events h with ⟨i, u, _, hu, rfl⟩ | ⟨_, rfl⟩ | rfl | ⟨a, rest, hi, rfl⟩ | ⟨a, r, _, rfl⟩ |
    ⟨a, _, _, _, _, _, rfl⟩ | ⟨a, _, _, _, _, _, rfl⟩ | ⟨rest, hi, rfl⟩
  case inl =>
    obtain ⟨_, _, _, _, hinputs, _⟩ := commandsLeaveThePortSideAlone i _ u hu
    exact hinputs
  case inr.inr.inr.inl | inr.inr.inr.inr.inr.inr.inr => rw [hi]; rfl
  all_goals rfl

theorem step_pendMatchesBusy {s t : State} (hp : PendMatchesBusy s) (h : step s = .next t) : PendMatchesBusy t := by
  rcases step_engine_cases h with ⟨i, u, _, _, rfl⟩ | rfl | ⟨_, rest, rfl⟩ | ⟨_, hkeeps⟩
  · rfl
  · rfl
  · rfl
  · exact hkeeps hp

/-! ### A pending command with no input left (70_reset_and_hazards.md R199) -/

/-- With no input left a pending command is out of the way after at most one step, and the queues are as they were. -/
theorem reaches_idle {s : State} (hp : PendMatchesBusy s) (hi : s.inputs = []) :
    ∃ t, ReachesWithin 1 s t ∧ t.busy = false ∧ PendMatchesBusy t ∧ SameQueues s t := by
  cases hb : s.busy with
  | false => exact ⟨s, .refl 1 s, hb, hp, rfl, rfl, rfl⟩
  | true =>
    obtain ⟨t, ht⟩ := engineStep_answers hp hb
    have hstep : step s = .next t := by simp [step, machineStep, hi, quietStep, hb, ht]
    obtain ⟨hidle, hqueues⟩ := engineStep_completes ht
    exact ⟨t, .single hstep, hidle, step_pendMatchesBusy hp hstep, hqueues⟩

/-- Settles O54: each step takes an input and keeps PEND and BUSY in agreement; when no input is left the command completes. -/
theorem busyAlwaysFalls : Obligations.BusyAlwaysFalls := by
  intro s hp
  suffices h : ∃ t, ReachesWithin (s.inputs.length + 1) s t ∧ t.busy = false by
    obtain ⟨t, ⟨k, hk, hrun⟩, hidle⟩ := h
    exact ⟨k, t, hk, hrun, hidle⟩
  induction hi : s.inputs generalizing s with
  | nil =>
    obtain ⟨t, hreach, hidle, _⟩ := reaches_idle hp hi
    exact ⟨t, hreach, hidle⟩
  | cons i rest ih =>
    obtain ⟨t, hstep⟩ := everyStepAnswers s hp
    have hrest : t.inputs = rest := by rw [step_inputs hstep, hi, List.tail_cons]
    obtain ⟨u, hreach, hidle⟩ := ih t (step_pendMatchesBusy hp hstep) hrest
    exact ⟨u, (ReachesWithin.single hstep).trans hreach (by rw [List.length_cons]; omega), hidle⟩

/-! ### The waiting accesses with no input left (20_memory.md R57, 70_reset_and_hazards.md R199) -/

theorem performAccess_ne_hold (r : Reg) (a : Access) (s : State) : performAccess r a s ≠ .hold := by
  unfold performAccess
  split <;> split <;> exact PortResult.noConfusion

/-- Only BUSY = 1 holds an access (20_memory.md R57). -/
theorem portAccess_ne_hold {s : State} (hb : s.busy = false) (a : Access) : portAccess a s ≠ .hold := by
  by_cases hw : a.width = 64
  · cases hr : registerAt a.off.toNat with
    | none =>
      obtain ⟨reason, hp⟩ := portAccess_noRegister (s := s) hw hr
      rw [hp]
      exact PortResult.noConfusion
    | some row =>
      cases hset : row.allows a.dir with
      | false =>
        rw [portAccess_refused hw hr hset]
        exact PortResult.noConfusion
      | true =>
        rw [portAccess_performed hw hr hset (.inl hb)]
        exact performAccess_ne_hold row.reg a s
  · rw [portAccess_width hw]
    exact PortResult.noConfusion

/-- An idle engine's port answers the oldest access of a host, and writes nothing else to the queues. -/
theorem serve_answers {s : State} {host : Nat} {a : Access} (hb : s.busy = false) (ho : s.oldestOf host = some a) :
    ∃ u r, s.serve host = u.answer host r ∧ SameQueues s u := by
  cases hp : portAccess a s with
  | busError reason => exact ⟨s, _, serve_busError ho hp, rfl, rfl, rfl⟩
  | hold => exact absurd hp (portAccess_ne_hold hb a)
  | readDone v => exact ⟨s, _, serve_readDone ho hp, rfl, rfl, rfl⟩
  | writeDone t =>
    obtain ⟨r, ht⟩ := portAccess_writeDone hp
    exact ⟨t, _, serve_writeDone ho hp, portWrite_sameQueues ht⟩

/-- With no input left an idle engine's step answers the oldest waiting access. -/
theorem step_answers_oldest {s : State} {a : Access} {as : List Access} (hb : s.busy = false) (hi : s.inputs = [])
    (hw : s.waiting = a :: as) :
    ∃ t r, step s = .next t ∧ t.waiting = as ∧ t.responses = s.responses ++ [r] := by
  have ho : s.oldestOf a.host = some a := by simp [State.oldestOf, hw]
  obtain ⟨u, r, hserve, hwaiting, _, hresponses⟩ := serve_answers hb ho
  have hstep : step s = .next (s.serve a.host) := by simp [step, machineStep, hi, quietStep, hb, hw]
  refine ⟨_, ⟨a.host, r⟩, hstep, ?_, ?_⟩
  · simp [hserve, hwaiting, hw]
  · simp [hserve, hresponses]

/-- Settles O55: a pending command completes, then the oldest access is answered, and so on down the waiting accesses. -/
theorem heldAccessesAreAnswered : Obligations.HeldAccessesAreAnswered := by
  intro s hp hi
  suffices h : ∃ t, ReachesWithin (2 * s.waiting.length + 1) s t ∧ t.waiting = [] ∧ t.busy = false ∧
      t.responses.length = s.responses.length + s.waiting.length by
    obtain ⟨t, ⟨k, hk, hrun⟩, hdone⟩ := h
    exact ⟨k, t, hk, hrun, hdone⟩
  induction hw : s.waiting generalizing s with
  | nil =>
    obtain ⟨t, hreach, hidle, _, hwaiting, _, hresponses⟩ := reaches_idle hp hi
    exact ⟨t, hreach, hwaiting.trans hw, hidle, by simp [hresponses]⟩
  | cons a as ih =>
    obtain ⟨t, hreach, hidle, hpt, hwaiting, hinputs, hresponses⟩ := reaches_idle hp hi
    obtain ⟨u, r, hstep, hrest, hanswer⟩ := step_answers_oldest hidle (hinputs.trans hi) (hwaiting.trans hw)
    have hui : u.inputs = [] := by rw [step_inputs hstep, hinputs, hi, List.tail_nil]
    obtain ⟨v, hreach', hempty, hidle', hcount⟩ := ih u (step_pendMatchesBusy hpt hstep) hui hrest
    refine ⟨v, (hreach.trans (.single hstep) le_rfl).trans hreach' ?_, hempty, hidle', ?_⟩
    · rw [List.length_cons]
      omega
    · rw [hcount, hanswer, hresponses, List.length_append, List.length_cons, List.length_cons, List.length_nil]
      omega

end Sys2Proof.Machine
end

section
/-! SUPPORT. The digests of two messages of one padded block (95_test_vectors.md V1, V2); from these, the statement O30. -/

namespace Sys2Proof.Machine

/-- With room for the padding in the first block there is one compression, from the IV (41_commands.md R132). -/
theorem sha384_eq_of_one_block {msg : List Byte} (h : msg.length ≤ 111) :
    sha384 msg = DigestRegs.latch (compress HashRegs.iv (blockOf (padMessage msg) 0)) := by
  have hblocks : (padMessage msg).length / 128 = 1 := by
    rw [padMessage_length, padZeros]
    omega
  rw [sha384, hblocks, chain, chain]

/-- V1: the empty string. -/
theorem sha384_empty :
    sha384 [] = ⟨0x38b060a751ac9638, 0x4cd9327eb1b1e36a, 0x21fdb71114be0743,
      0x4c0cc7bf63f6e1da, 0x274edebfe76f65fb, 0xd51ad2f14898b95b⟩ := by
  rw [sha384_eq_of_one_block (by decide)]
  decide +kernel

/-- V2: "abc". -/
theorem sha384_abc :
    sha384 [0x61, 0x62, 0x63] = ⟨0xcb00753f45a35e8b, 0xb5a03d699ac65007, 0x272c32ab0eded163,
      0x1a8b605a43ff5bed, 0x8086072ba1e7cc23, 0x58baeca134c825a7⟩ := by
  rw [sha384_eq_of_one_block (by decide)]
  decide +kernel

/-- The reset state is as init leaves it (70_reset_and_hazards.md R192). -/
theorem absorbed_reset : Absorbed [] State.reset := absorbed_construct State.reset

/-- Settles O30: after reset the empty message is absorbed, so final latches its digest; both messages are one block. -/
theorem knownAnswers : Obligations.KnownAnswers := by
  obtain ⟨t, ht, _, hdigest⟩ := finalLatchesTheDigest [] State.reset absorbed_reset
  exact ⟨⟨t, ht, hdigest.trans sha384_empty⟩, sha384_abc⟩

end Sys2Proof.Machine
end
